-- ==== Sys2Proof/Word.lean ====
section
/-! DEFINITION. The parameters of 00_scope R5 that are widths or counts, each said once, and the word types
of the machine (10_state R20 to R27, 30_encoding R70). -/

namespace Sys2Proof

/-- NREGS, the general registers (00_scope R5). -/
abbrev Config.nregs : Nat := 16

/-- REG_WIDTH, the bits of a general register (00_scope R5). -/
abbrev Config.regWidth : Nat := 8

/-- PC_WIDTH, the bits of `pc` and so of an entry of the stack, which holds one (00_scope R5). -/
abbrev Config.pcWidth : Nat := 16

/-- I_WIDTH, the bits of `I` (00_scope R5). -/
abbrev Config.iWidth : Nat := 16

/-- STACK_DEPTH, the entries of the stack (00_scope R5). -/
abbrev Config.stackDepth : Nat := 16

/-- SP_WIDTH, the bits of `sp` (00_scope R5). -/
abbrev Config.spWidth : Nat := 4

/-- TIMER_WIDTH, the bits of each timer (00_scope R5). -/
abbrev Config.timerWidth : Nat := 8

/-- A byte of memory (10_state R33), and the field NN (30_encoding R70). -/
abbrev Byte := BitVec 8

/-- A 16-bit instruction word, and a memory address as it is computed (00_scope R4, 20_memory R51). -/
abbrev Word := BitVec 16

/-- A 12-bit address or jump target, the field NNN (30_encoding R70). -/
abbrev Addr := BitVec 12

/-- A 4-bit value: a sprite height, a nibble of a template (00_scope R7). -/
abbrev Nibble := BitVec 4

/-- The number of a general register: every value names a register (10_state R20). -/
abbrev Reg := Fin (delta% Config.nregs)

end Sys2Proof
end

