-- ==== Sys2Proof/Config.lean ====
section
/-! DEFINITION. The parameters of 00_scope R5, the configuration record of 10_state R29, and the free
values of the two per-tick inputs no rule constrains. -/

namespace Sys2Proof

/-- The parameters of 00_scope R5 that a machine of `nregs` registers carries as values. The widths and
counts of R5 are the arguments of `Machine.Sized.State` (log entry 11). -/
structure Sized.Parameters (nregs : Nat) where
  /-- FLAG_REG (10_state R21). -/
  flagReg       : Fin nregs
  /-- MEM_SIZE, in bytes (10_state R33). -/
  memSize       : Nat
  /-- ADDR_MASK, the mask of addresses and of every write of `pc` (20_memory R51, 10_state R22). -/
  addrMask      : Word
  /-- PROGRAM_ORIGIN (10_state R34). -/
  programOrigin : Word
  /-- FONT_BASE (10_state R40). -/
  fontBase      : Word
  /-- GLYPH_BYTES (43_index_memory R182). -/
  glyphBytes    : Nat
  /-- FONT (10_state R40). -/
  font          : List Byte
  /-- DISPLAY_W, the width `resolution()` reports (60_exceptions R247). -/
  displayWidth  : Nat
  /-- DISPLAY_H, the height `resolution()` reports (60_exceptions R247). -/
  displayHeight : Nat
  /-- KEY_WIDTH, in bits (40_execution_cycle R115). -/
  keyWidth      : Nat
  deriving DecidableEq, Repr

/-- The parameters of a machine with this hardware's registers. -/
abbrev Parameters := Sized.Parameters (delta% Config.nregs)

/-- The key the input reports in the tick numbered `n`, where the host has not fixed it: a free value,
`none` or any code (40_execution_cycle R115; log entry 3). -/
opaque Config.freeKey (n : Nat) : Option Byte

/-- The random byte of the tick numbered `n`, where the host has not fixed it: a free value
(40_execution_cycle R116; log entry 3). -/
opaque Config.freeRand (n : Nat) : Byte

/-- The stack bounds policy `stack_check` (10_state R29). -/
inductive StackPolicy where
  | strict
  | wrap
  deriving DecidableEq, Repr

/-- The configuration, fixed at construction (10_state R29), with the optional observer of
60_exceptions R245. -/
structure Configuration where
  shiftQuirk : Bool
  clockHz    : Nat
  stackCheck : StackPolicy
  observer   : Bool
  deriving DecidableEq, Repr

/-- The defaults of 10_state R29; no observer is attached (log entry 7). -/
def Configuration.default : Configuration :=
  { shiftQuirk := false, clockHz := 300, stackCheck := .strict, observer := false }

end Sys2Proof
end

