-- ==== Sys2Proof/Machine/Hardware.lean ====
section
/-! DEFINITION. The values this hardware takes of the parameters of 00_scope R5, the font table of 10_state
R40 among them. -/

namespace Sys2Proof

/-- MAX_PROGRAM, what memory holds after the program origin (00_scope R5). -/
def Sized.Parameters.maxProgram {n : Nat} (p : Sized.Parameters n) : Nat := p.memSize - p.programOrigin.toNat

/-- The parameters that fit together: ADDR_MASK keeps exactly the addresses below MEM_SIZE, so that masking is
reduction modulo MEM_SIZE (20_memory R51), memory holds a block of all the registers
(43_index_memory R184) and the program origin, and the display's resolution is not empty
(60_exceptions R247). -/
structure Sized.Parameters.Wf {n : Nat} (p : Sized.Parameters n) : Prop where
  mask    : p.addrMask.toNat + 1 = p.memSize
  divides : p.memSize ∣ 2 ^ 16
  block   : n ≤ p.memSize
  origin  : p.programOrigin.toNat < p.memSize
  width   : 0 < p.displayWidth
  height  : 0 < p.displayHeight

/-- Glyphs 0 to 7 of the font, five bytes each (10_state R40). -/
def Config.fontLow : List Byte := [
  0xF0, 0x90, 0x90, 0x90, 0xF0,  0x20, 0x60, 0x20, 0x20, 0x70,
  0xF0, 0x10, 0xF0, 0x80, 0xF0,  0xF0, 0x10, 0xF0, 0x10, 0xF0,
  0x90, 0x90, 0xF0, 0x10, 0x10,  0xF0, 0x80, 0xF0, 0x10, 0xF0,
  0xF0, 0x80, 0xF0, 0x90, 0xF0,  0xF0, 0x10, 0x20, 0x40, 0x40]

/-- Glyphs 8 to F of the font, five bytes each (10_state R40). -/
def Config.fontHigh : List Byte := [
  0xF0, 0x90, 0xF0, 0x90, 0xF0,  0xF0, 0x90, 0xF0, 0x10, 0xF0,
  0xF0, 0x90, 0xF0, 0x90, 0x90,  0xE0, 0x90, 0xE0, 0x90, 0xE0,
  0xF0, 0x80, 0x80, 0x80, 0xF0,  0xE0, 0x90, 0x90, 0x90, 0xE0,
  0xF0, 0x80, 0xF0, 0x80, 0xF0,  0xF0, 0x80, 0xF0, 0x80, 0x80]

/-- The values this hardware takes, the table of 00_scope R5. -/
def Parameters.hardware : Parameters :=
  { flagReg := 15, memSize := 4096, addrMask := 0x0FFF, programOrigin := 0x200, fontBase := 0x000,
    glyphBytes := 5, font := Config.fontLow ++ Config.fontHigh, displayWidth := 64, displayHeight := 32,
    keyWidth := 4 }

end Sys2Proof
end

