-- ==== Sys2Proof/Syntax.lean ====
section
/-! DEFINITION. The instructions: one constructor per row of spec/opcode_table.json (30_encoding R75), its
fields at the widths of R70. -/

namespace Sys2Proof

/-- One instruction: a catalog pattern and the values of its fields (30_encoding R76, R79). -/
inductive Instr where
  /-- `0NNN` SYS (41_control_flow R131). -/
  | sys (nnn : Addr)
  /-- `00E0` CLS (44_display_input_timers R200). -/
  | cls
  /-- `00EE` RET (41_control_flow R132). -/
  | ret
  /-- `1NNN` JP (41_control_flow R134). -/
  | jp (nnn : Addr)
  /-- `2NNN` CALL (41_control_flow R135). -/
  | call (nnn : Addr)
  /-- `3XNN` SE_IMM (41_control_flow R137). -/
  | seImm (x : Reg) (nn : Byte)
  /-- `4XNN` SNE_IMM (41_control_flow R138). -/
  | sneImm (x : Reg) (nn : Byte)
  /-- `5XY0` SE_REG (41_control_flow R139). -/
  | seReg (x y : Reg)
  /-- `6XNN` LD_IMM (42_alu R150). -/
  | ldImm (x : Reg) (nn : Byte)
  /-- `7XNN` ADD_IMM (42_alu R151). -/
  | addImm (x : Reg) (nn : Byte)
  /-- `8XY0` LD_REG (42_alu R152). -/
  | ldReg (x y : Reg)
  /-- `8XY1` OR (42_alu R153). -/
  | or (x y : Reg)
  /-- `8XY2` AND (42_alu R154). -/
  | and (x y : Reg)
  /-- `8XY3` XOR (42_alu R155). -/
  | xor (x y : Reg)
  /-- `8XY4` ADD_REG (42_alu R156). -/
  | addReg (x y : Reg)
  /-- `8XY5` SUB (42_alu R157). -/
  | sub (x y : Reg)
  /-- `8XY6` SHR (42_alu R159). -/
  | shr (x y : Reg)
  /-- `8XY7` SUBN (42_alu R160). -/
  | subn (x y : Reg)
  /-- `8XYE` SHL (42_alu R161). -/
  | shl (x y : Reg)
  /-- `9XY0` SNE_REG (41_control_flow R140). -/
  | sneReg (x y : Reg)
  /-- `ANNN` LD_I (43_index_memory R180). -/
  | ldI (nnn : Addr)
  /-- `BNNN` JP_V0 (41_control_flow R141). -/
  | jpV0 (nnn : Addr)
  /-- `CXNN` RND (42_alu R162). -/
  | rnd (x : Reg) (nn : Byte)
  /-- `DXYN` DRW (44_display_input_timers R201). -/
  | drw (x y : Reg) (n : Nibble)
  /-- `EX9E` SKP (44_display_input_timers R202). -/
  | skp (x : Reg)
  /-- `EXA1` SKNP (44_display_input_timers R203). -/
  | sknp (x : Reg)
  /-- `FX07` LD_VX_DT (44_display_input_timers R204). -/
  | ldVxDt (x : Reg)
  /-- `FX0A` LD_VX_K (44_display_input_timers R205). -/
  | ldVxK (x : Reg)
  /-- `FX15` LD_DT_VX (44_display_input_timers R206). -/
  | ldDtVx (x : Reg)
  /-- `FX18` LD_ST_VX (44_display_input_timers R207). -/
  | ldStVx (x : Reg)
  /-- `FX1E` ADD_I_VX (43_index_memory R181). -/
  | addIVx (x : Reg)
  /-- `FX29` LD_F_VX (43_index_memory R182). -/
  | ldFVx (x : Reg)
  /-- `FX33` LD_B_VX (43_index_memory R183). -/
  | ldBVx (x : Reg)
  /-- `FX55` LD_MEM_VX (43_index_memory R184). -/
  | ldMemVx (x : Reg)
  /-- `FX65` LD_VX_MEM (43_index_memory R185). -/
  | ldVxMem (x : Reg)
  deriving DecidableEq, Repr

end Sys2Proof
end

