-- ==== Sys2Proof/Machine/State.lean ====
section
/-! DEFINITION. The machine's state as plain data: the record of 10_state, the latches of R30, the display
plane of 60_exceptions R247, the inputs and outputs of a tick (40_execution_cycle R100, R101), and the
state after reset (10_state R34). -/

namespace Sys2Proof.Machine

/-- Memory: the cells that differ from their reset contents, addresses strictly rising (10_state R33;
log entry 6). `Memory.lookup` says what an unlisted address reads as, `Memory.wf` is the form. -/
abbrev Memory := List Host.Cell

/-- The fault codes of the core (60_exceptions R232). -/
inductive FaultCode where
  /-- No catalog entry matches the word (60_exceptions R233). -/
  | decode
  /-- CALL at `sp = 15` under the `strict` policy (60_exceptions R234). -/
  | stackOverflow
  /-- RET at `sp = 0` under the `strict` policy (60_exceptions R235). -/
  | stackUnderflow
  deriving DecidableEq, Repr

/-- The bit plane `P[x][y]` of the display (60_exceptions R247), as the list of its pixels that are on, in
rising order of (x, y). `Plane.pixel` reads it, `Plane.wf` is the form. -/
abbrev Plane := List (Nat × Nat)

/-- The inputs of one tick, each sampled once (40_execution_cycle R100, R115, R116). The answers to
`toggle_pixel` and `resolution` are the plane's own (60_exceptions R247). A tick carries the low KEY_WIDTH
bits of a key code (log entry 11). -/
structure TickInput where
  overrideWord : Option Word
  key          : Option Byte
  rand         : Byte
  deriving DecidableEq, Repr

/-- A request to the display in step 5 (60_exceptions R246, 40_execution_cycle R101). -/
inductive DisplayRequest where
  | clear
  | togglePixel (x y : Nat)
  deriving DecidableEq, Repr

/-- No sample taken yet. -/
def TickInput.none : TickInput := { overrideWord := Option.none, key := Option.none, rand := 0 }

end Sys2Proof.Machine

/-! The state, with the widths and counts of 00_scope R5 as arguments: `nregs`, `regWidth`, `pcWidth`,
`iWidth`, `stackDepth`, `spWidth` and `timerWidth` stand for NREGS, REG_WIDTH, PC_WIDTH, I_WIDTH, STACK_DEPTH,
SP_WIDTH and TIMER_WIDTH; the operations and meanings write them `n`, `w`, `pw`, `iw`, `d`, `sw` and `tw`. -/

namespace Sys2Proof.Machine.Sized

/-- The fault record `{code, pc, opcode}` (60_exceptions R231). -/
structure FaultRecord (pcWidth : Nat) where
  code   : FaultCode
  pc     : BitVec pcWidth
  opcode : Word
  deriving DecidableEq, Repr

/-- The observer's snapshot of a tick, taken before any change of it (60_exceptions R245); `insn` is the
decoded pattern with its fields. -/
structure Snapshot (nregs regWidth pcWidth iWidth spWidth timerWidth : Nat) where
  pc     : BitVec pcWidth
  sp     : BitVec spWidth
  I      : BitVec iWidth
  V      : Vector (BitVec regWidth) nregs
  DT     : BitVec timerWidth
  ST     : BitVec timerWidth
  opcode : Word
  insn   : Instr
  deriving DecidableEq, Repr

/-- The outputs of one tick, in the order of 40_execution_cycle R101. -/
structure Outputs (nregs regWidth pcWidth iWidth spWidth timerWidth : Nat) where
  obs           : Option (Snapshot nregs regWidth pcWidth iWidth spWidth timerWidth)
  display       : List DisplayRequest
  beep          : Bool
  frameComplete : Bool
  fault         : Option (FaultRecord pcWidth)
  deriving DecidableEq, Repr

/-- A tick that has emitted nothing. -/
def Outputs.none {nregs regWidth pcWidth iWidth spWidth timerWidth : Nat} :
    Outputs nregs regWidth pcWidth iWidth spWidth timerWidth :=
  { obs := Option.none, display := [], beep := false, frameComplete := false, fault := Option.none }

/-- Everything the spec gives the machine, and the model's own `pending`, `sampleNo`, `insnAddr` and
`insnWord` (log entries 3 and 4). -/
structure State (nregs regWidth pcWidth iWidth stackDepth spWidth timerWidth : Nat) where
  /-- The general registers V0 to VF (10_state R20). -/
  V        : Vector (BitVec regWidth) nregs
  /-- The program counter (10_state R22). -/
  pc       : BitVec pcWidth
  /-- The index register (10_state R24). -/
  I        : BitVec iWidth
  /-- The return-address stack (10_state R25). -/
  stack    : Vector (BitVec pcWidth) stackDepth
  /-- The stack pointer (10_state R26). -/
  sp       : BitVec spWidth
  /-- The delay ("delta") timer (10_state R27). -/
  DT       : BitVec timerWidth
  /-- The sound timer (10_state R27). -/
  ST       : BitVec timerWidth
  /-- Memory (10_state R33). -/
  mem      : Memory
  /-- The fault latch (10_state R30, 60_exceptions R231). -/
  fault    : Option (FaultRecord pcWidth)
  /-- The draw-effect latch (10_state R30, 40_execution_cycle R107). -/
  draw     : Bool
  /-- The implementation parameters that are values, fixed at construction (00_scope R5). -/
  params   : Sized.Parameters nregs
  /-- The configuration, fixed at construction (10_state R29). -/
  config   : Configuration
  /-- The host's halted flag (40_execution_cycle R111). -/
  halted   : Bool
  /-- The display's bit plane (60_exceptions R247). -/
  display  : Plane
  /-- The input sample of the tick in progress (40_execution_cycle R100). -/
  input    : TickInput
  /-- The samples the host has fixed for the coming ticks, oldest first (log entry 3). -/
  pending  : List TickInput
  /-- How many samples have been taken; it indexes the free values (log entry 3). -/
  sampleNo : Nat
  /-- `a`, the address of the instruction in progress (40_execution_cycle R102; log entry 4). -/
  insnAddr : BitVec pcWidth
  /-- `op`, the word of the instruction in progress (40_execution_cycle R102; log entry 4). -/
  insnWord : Word
  /-- The outputs of the latest tick (40_execution_cycle R101; log entry 5). -/
  out      : Outputs nregs regWidth pcWidth iWidth spWidth timerWidth
  deriving DecidableEq, Repr

/-- The state after construction with the parameters `p`, the configuration `c` and the display
content `disp` (DISPLAY_INIT of 60_exceptions R247): the values of 10_state R34, with no program, nothing
pending and the halted flag clear (70_reset_and_hazards R263; log entries 3, 4, 5 and 8). -/
def State.initial {nregs regWidth pcWidth iWidth stackDepth spWidth timerWidth : Nat}
    (p : Sized.Parameters nregs) (c : Configuration) (disp : Plane) :
    State nregs regWidth pcWidth iWidth stackDepth spWidth timerWidth :=
  { V := Vector.replicate _ 0, pc := p.programOrigin.setWidth _, I := 0, stack := Vector.replicate _ 0,
    sp := 0, DT := 0, ST := 0, mem := [], fault := none, draw := false, params := p, config := c,
    halted := false, display := disp, input := TickInput.none, pending := [], sampleNo := 0,
    insnAddr := p.programOrigin.setWidth _, insnWord := 0, out := Outputs.none }

end Sys2Proof.Machine.Sized

namespace Sys2Proof.Machine

/-- The state of this hardware: the widths and counts of 00_scope R5 at their values (Word.lean). -/
abbrev State : Type :=
  Sized.State (nregs := delta% Config.nregs) (regWidth := delta% Config.regWidth)
    (pcWidth := delta% Config.pcWidth) (iWidth := delta% Config.iWidth)
    (stackDepth := delta% Config.stackDepth) (spWidth := delta% Config.spWidth)
    (timerWidth := delta% Config.timerWidth)

/-- The fault record of this hardware. -/
abbrev FaultRecord : Type := Sized.FaultRecord (delta% Config.pcWidth)

/-- The observer's snapshot on this hardware. -/
abbrev Snapshot : Type :=
  Sized.Snapshot (nregs := delta% Config.nregs) (regWidth := delta% Config.regWidth)
    (pcWidth := delta% Config.pcWidth) (iWidth := delta% Config.iWidth) (spWidth := delta% Config.spWidth)
    (timerWidth := delta% Config.timerWidth)

/-- The outputs of a tick on this hardware. -/
abbrev Outputs : Type :=
  Sized.Outputs (nregs := delta% Config.nregs) (regWidth := delta% Config.regWidth)
    (pcWidth := delta% Config.pcWidth) (iWidth := delta% Config.iWidth) (spWidth := delta% Config.spWidth)
    (timerWidth := delta% Config.timerWidth)

/-- A tick of this hardware that has emitted nothing. -/
abbrev Outputs.none : Outputs := Sized.Outputs.none

/-- Why a step could stop outside the machine's own rules: never. Every fault the spec describes is a
next state with the fault latch set (60_exceptions R240), and no address is out of range
(20_memory R51), so no step raises a value of this type. -/
inductive Fault where
  deriving DecidableEq, Repr

/-- Why the model could give an instruction no meaning. -/
inductive Refusal where
  /-- Raised by an arm of `exec` whose instruction has no meaning yet: safe, since nothing is said of
  it. No arm raises it. -/
  | notModelled (mnemonic : String)
  deriving DecidableEq, Repr

/-- Why a host action is refused; it never sets the fault latch (60_exceptions R232). -/
inductive HostError where
  /-- Construction with a clock frequency that is not positive (60_exceptions R236). -/
  | invalidConfig
  /-- A program longer than memory after the origin (60_exceptions R237). -/
  | programTooLarge
  deriving DecidableEq, Repr

/-- A display just constructed: all pixels off (60_exceptions R247). -/
def Plane.blank : Plane := []

/-- The machine right after reset: this hardware's parameters, the default configuration and a display just
constructed (00_scope R5; 10_state R29, R34; 60_exceptions R247). -/
def State.reset : State := Sized.State.initial Parameters.hardware Configuration.default Plane.blank

end Sys2Proof.Machine
end

