-- ==== Sys2Proof/Machine/Memory.lean ====
section
/-! DEFINITION. The memory array: its reset contents (10_state R34, R40) under the
parameters of the machine, one byte's read and write, and the canonical form of the list that holds it. -/

namespace Sys2Proof.Machine

variable {n : Nat}

/-- What an address the list does not hold reads as: the reset contents, the font from FONT_BASE on and
0x00 elsewhere (10_state R34). -/
def Memory.unlisted (p : Sized.Parameters n) (a : Nat) : Byte :=
  if p.fontBase.toNat ≤ a then p.font.getD (a - p.fontBase.toNat) 0 else 0

/-- The byte at address `a`. -/
def Memory.lookup (m : Memory) (p : Sized.Parameters n) (a : Nat) : Byte :=
  match m with
  | [] => Memory.unlisted p a
  | c :: rest => if c.1 = a then c.2 else Memory.lookup rest p a

/-- Puts a cell before the first one with a higher address. -/
def Memory.insertCell (c : Host.Cell) (m : Memory) : Memory :=
  match m with
  | [] => [c]
  | d :: rest => if c.1 < d.1 then c :: d :: rest else d :: Memory.insertCell c rest

/-- Memory with the byte `b` at address `a`: the old entry of `a` goes, and a new one is listed unless
`b` is what an unlisted address reads as. -/
def Memory.store (m : Memory) (p : Sized.Parameters n) (a : Nat) (b : Byte) : Memory :=
  let rest := m.filter (fun c => c.1 != a)
  if b = Memory.unlisted p a then rest else Memory.insertCell (a, b) rest

/-- The canonical form: addresses strictly rising and inside the array (10_state R33), no entry equal to
what an unlisted address reads as. -/
abbrev Memory.wf (m : Memory) (p : Sized.Parameters n) : Prop :=
  m.Pairwise (fun c d => c.1 < d.1) ∧ ∀ c ∈ m, c.1 < p.memSize ∧ c.2 ≠ Memory.unlisted p c.1

end Sys2Proof.Machine
end

