-- ==== Sys2Proof/Machine/Ops.lean ====
section
/-! DEFINITION. The named operations every meaning is written over: registers, stack, memory through the
address decoder, the display's requests, and the one operation that takes a fault. -/

namespace Sys2Proof.Machine

variable {n w pw iw d sw tw : Nat}

/-- What a step or a meaning answers. -/
abbrev Sized.Result (n w pw iw d sw tw : Nat) := Host.Outcome (Sized.State n w pw iw d sw tw) Fault Refusal

/-- What a step or a meaning answers on this hardware. -/
abbrev Result := Host.Outcome State Fault Refusal

/-- A value brought to the width it is used at: widened with zero bits, or reduced modulo 2^w
(00_scope R8). Where the widths agree it is the value itself. -/
def zext {v w : Nat} (a : BitVec v) : BitVec w := a.setWidth w

/-- Reads general register `x` (10_state R20). -/
def readReg (s : Sized.State n w pw iw d sw tw) (x : Fin n) : BitVec w := s.V[x]

/-- Writes general register `x` (10_state R20). -/
def writeReg (x : Fin n) (v : BitVec w) (s : Sized.State n w pw iw d sw tw) : Sized.State n w pw iw d sw tw :=
  { s with V := s.V.set x v }

/-- `pc <- t`: every write of `pc` stores `t & ADDR_MASK` (10_state R22). -/
def writePc (t : BitVec pw) (s : Sized.State n w pw iw d sw tw) : Sized.State n w pw iw d sw tw :=
  { s with pc := t &&& zext s.params.addrMask }

/-- `I <- v`, all its bits (10_state R24). -/
def writeI (v : BitVec iw) (s : Sized.State n w pw iw d sw tw) : Sized.State n w pw iw d sw tw :=
  { s with I := v }

/-- The last entry of a stack of `depth` entries (10_state R26). -/
def topEntry (depth : Nat) : BitVec sw := BitVec.ofNat sw (depth - 1)

/-- Reads stack entry `j`, a number below STACK_DEPTH on this hardware (10_state R25, R26). -/
def readStack [NeZero d] (s : Sized.State n w pw iw d sw tw) (j : BitVec sw) : BitVec pw :=
  s.stack[Fin.ofNat d j.toNat]

/-- Writes stack entry `j` (10_state R25, R26). -/
def writeStack [NeZero d] (j : BitVec sw) (v : BitVec pw) (s : Sized.State n w pw iw d sw tw) :
    Sized.State n w pw iw d sw tw :=
  { s with stack := s.stack.set (Fin.ofNat d j.toNat) v }

/-- `sp <- v` (10_state R26). -/
def writeSp (v : BitVec sw) (s : Sized.State n w pw iw d sw tw) : Sized.State n w pw iw d sw tw :=
  { s with sp := v }

/-- `DT <- v` (10_state R27). -/
def writeDT (v : BitVec tw) (s : Sized.State n w pw iw d sw tw) : Sized.State n w pw iw d sw tw :=
  { s with DT := v }

/-- `ST <- v` (10_state R27). -/
def writeST (v : BitVec tw) (s : Sized.State n w pw iw d sw tw) : Sized.State n w pw iw d sw tw :=
  { s with ST := v }

/-- The address decoder: every address is decoded as `a & ADDR_MASK` (20_memory R51). -/
def decodeAddr (p : Sized.Parameters n) (a : Word) : Nat := (a &&& p.addrMask).toNat

/-- `MemRead(a, 1)` of a memory (20_memory R51). -/
def Memory.read (m : Memory) (p : Sized.Parameters n) (a : Word) : Byte := m.lookup p (decodeAddr p a)

/-- `MemWrite(a, 1, v)` on a memory (20_memory R51). -/
def Memory.write (m : Memory) (p : Sized.Parameters n) (a : Word) (v : Byte) : Memory :=
  m.store p (decodeAddr p a) v

/-- A run of bytes written at `a`, `a + 1`, ..., one at a time through the decoder (20_memory R55). -/
def Memory.writeRun (m : Memory) (p : Sized.Parameters n) (a : Word) (bs : List Byte) : Memory :=
  match bs with
  | [] => m
  | b :: rest => Memory.writeRun (m.write p a b) p (a + 1) rest

/-- The byte memory holds at the address `a` of the array, `mem[a]` (10_state R33). -/
def byteAt (s : Sized.State n w pw iw d sw tw) (a : Nat) : Byte := s.mem.lookup s.params a

/-- `MemRead(a, 1)` (20_memory R51). -/
def memRead (s : Sized.State n w pw iw d sw tw) (a : Word) : Byte := s.mem.read s.params a

/-- `MemWrite(a, 1, v)` (20_memory R51). -/
def memWrite (a : Word) (v : Byte) (s : Sized.State n w pw iw d sw tw) : Sized.State n w pw iw d sw tw :=
  { s with mem := s.mem.write s.params a v }

/-- Writes a run of bytes from `a` on (20_memory R55). -/
def storeBytes (a : Word) (bs : List Byte) (s : Sized.State n w pw iw d sw tw) :
    Sized.State n w pw iw d sw tw :=
  { s with mem := s.mem.writeRun s.params a bs }

/-- The address of the `k`-th byte an instruction touches, `I + k` (43_index_memory R186). -/
def effAddr (s : Sized.State n w pw iw d sw tw) (k : Nat) : Word := zext s.I + BitVec.ofNat _ k

/-- `x[k] <- MemRead(I + k, 1)` for `k` in `0 .. x` (43_index_memory R185). -/
def loadRegs (x : Fin n) (s : Sized.State n w pw iw d sw tw) : Sized.State n w pw iw d sw tw :=
  { s with V := Vector.ofFn fun k : Fin n => if k ≤ x then zext (memRead s (effAddr s k)) else s.V[k] }

/-- The pixel `P[x][y]` (60_exceptions R247). -/
def Plane.pixel (d : Plane) (x y : Nat) : Bool := d.contains (x, y)

/-- The order in which a plane lists its pixels. -/
abbrev Plane.before (q r : Nat × Nat) : Prop := q.1 < r.1 ∨ q.1 = r.1 ∧ q.2 < r.2

/-- Puts a pixel before the first one that comes after it. -/
def Plane.insertPixel (q : Nat × Nat) (d : Plane) : Plane :=
  match d with
  | [] => [q]
  | r :: rest => if Plane.before q r then q :: r :: rest else r :: Plane.insertPixel q rest

/-- `P[x][y] <- 1 - old` (60_exceptions R247). -/
def Plane.flip (d : Plane) (x y : Nat) : Plane :=
  if d.pixel x y then d.filter (fun q => q != (x, y)) else Plane.insertPixel (x, y) d

/-- The canonical form of a plane: its pixels in rising order, each inside the resolution
(60_exceptions R247). -/
abbrev Plane.wf (d : Plane) (p : Sized.Parameters n) : Prop :=
  d.Pairwise Plane.before ∧ ∀ q ∈ d, q.1 < p.displayWidth ∧ q.2 < p.displayHeight

/-- `toggle_pixel` at each of the pixels in order: the plane after them, and whether some pixel went from
on to off (60_exceptions R246, R247; 44_display_input_timers R201). -/
def Plane.toggleAll (d : Plane) (pixels : List (Nat × Nat)) : Plane × Bool :=
  match pixels with
  | [] => (d, false)
  | q :: rest =>
    let after := Plane.toggleAll (d.flip q.1 q.2) rest
    (after.1, d.pixel q.1 q.2 || after.2)

/-- `DispClear()`: the request and its effect on the plane (60_exceptions R246, R247). -/
def dispClear (s : Sized.State n w pw iw d sw tw) : Sized.State n w pw iw d sw tw :=
  { s with display := Plane.blank, out := { s.out with display := s.out.display ++ [.clear] } }

/-- `DispToggle` at each of the pixels in order: the requests and their effect on the plane
(60_exceptions R246, R247). -/
def dispToggle (pixels : List (Nat × Nat)) (s : Sized.State n w pw iw d sw tw) :
    Sized.State n w pw iw d sw tw :=
  { s with
    display := (s.display.toggleAll pixels).1
    out := { s.out with display := s.out.display ++ pixels.map fun q => .togglePixel q.1 q.2 } }

/-- `draw <- true`: the draw-effect latch (40_execution_cycle R107). -/
def markDraw (s : Sized.State n w pw iw d sw tw) : Sized.State n w pw iw d sw tw := { s with draw := true }

/-- `raise Fault(code, {a, op})`, the one way a fault is taken: the latch and the fault output hold the
record, `pc` holds `a` again, and nothing else is committed (60_exceptions R231, R239, R240;
40_execution_cycle R110). There is no return from a fault: only `resetCore` and `load` clear the latch
(60_exceptions R241). -/
def raiseFault (code : FaultCode) (s : Sized.State n w pw iw d sw tw) : Sized.State n w pw iw d sw tw :=
  let r : Sized.FaultRecord pw := { code := code, pc := s.insnAddr, opcode := s.insnWord }
  { s with fault := some r, pc := s.insnAddr, out := { s.out with fault := some r } }

/-- The number of a fault code (60_exceptions R232). -/
def FaultCode.number (c : FaultCode) : Nat :=
  match c with
  | .decode => 1
  | .stackOverflow => 2
  | .stackUnderflow => 3

end Sys2Proof.Machine
end

