-- ==== Sys2Proof/Machine/Operands.lean ====
section
/-! DEFINITION. The operand forms: the target of a jump, the shift source, the effective address, the
sprite of a draw, and the comparison with the key sample. -/

namespace Sys2Proof.Machine

variable {n w pw iw d sw tw : Nat}

/-- The source of SHR and SHL: Vy with the shift quirk, else Vx (42_alu R158). -/
def shiftSource (s : Sized.State n w pw iw d sw tw) (x y : Fin n) : BitVec w :=
  if s.config.shiftQuirk then readReg s y else readReg s x

/-- `V0..VX`, the registers LD_MEM_VX stores (43_index_memory R184). -/
def regsUpTo (s : Sized.State n w pw iw d sw tw) (x : Fin n) : List Byte :=
  (s.V.toList.take (x.val + 1)).map zext

/-- The decimal digits of a register's value: hundreds, tens, ones (43_index_memory R183). -/
def bcdDigits (v : BitVec w) : List Byte :=
  [BitVec.ofNat 8 (v.toNat / 100), BitVec.ofNat 8 (v.toNat / 10 % 10), BitVec.ofNat 8 (v.toNat % 10)]

/-- The bits a key code has, KEY_WIDTH ones (40_execution_cycle R100, R115). -/
def keyMask (p : Sized.Parameters n) : Byte := BitVec.ofNat 8 (2 ^ p.keyWidth - 1)

/-- `KEY != none and zext_8(KEY) == v` (44_display_input_timers R202). -/
def keyEquals (s : Sized.State n w pw iw d sw tw) (v : BitVec w) : Bool :=
  match s.input.key with
  | none => false
  | some k => zext k == v

/-- The pixels of one sprite row at display row `y`: column `c` for each 1 bit, bit 7 leftmost, wrapped
mod `W` (44_display_input_timers R201). -/
def rowPixels (W : Nat) (row : Byte) (px y : Nat) : List (Nat × Nat) :=
  (List.range 8).filterMap fun c => if row.getLsbD (7 - c) then some ((px + c) % W, y) else none

/-- The pixels a draw toggles, in row order and within a row from left to right, each wrapped on its own
(44_display_input_timers R201). -/
def spritePixels (s : Sized.State n w pw iw d sw tw) (px py n : Nat) : List (Nat × Nat) :=
  (List.range n).flatMap fun r =>
    rowPixels s.params.displayWidth (memRead s (effAddr s r)) px ((py + r) % s.params.displayHeight)

end Sys2Proof.Machine
end

