-- ==== Sys2Proof/Machine/Flags.lean ====
section
/-! DEFINITION. The values of the flag register VF (10_state R21, 42_alu R163): each is 0 or 1. -/

namespace Sys2Proof.Machine

variable {n w pw iw d sw tw : Nat}

/-- A flag as VF holds it (10_state R21). -/
def flagByte (b : Bool) : BitVec w := if b then 1 else 0

/-- The carry of ADD_REG: the sum is above the greatest register value (42_alu R156). -/
def carry {w : Nat} (vx vy : BitVec w) : Bool := decide (2 ^ w ≤ vx.toNat + vy.toNat)

/-- The not-borrow of SUB and SUBN: minuend at least subtrahend (42_alu R157, R160). -/
def notBorrow {w : Nat} (minuend subtrahend : BitVec w) : Bool :=
  decide (subtrahend.toNat ≤ minuend.toNat)

/-- The bit SHR shifts out (42_alu R159). -/
def shiftedOutRight {w : Nat} (src : BitVec w) : Bool := src.getLsbD 0

/-- The bit SHL shifts out, the top one (42_alu R161). -/
def shiftedOutLeft {w : Nat} (src : BitVec w) : Bool := src.getLsbD (w - 1)

/-- `x[FLAG_REG] <- flag` (10_state R21). -/
def writeFlag (f : Bool) (s : Sized.State n w pw iw d sw tw) : Sized.State n w pw iw d sw tw :=
  writeReg s.params.flagReg (flagByte f) s

/-- The result first and VF second, so that with X = FLAG_REG the flag is what VF holds afterwards
(10_state R21). -/
def writeResultAndFlag (x : Fin n) (v : BitVec w) (f : Bool) (s : Sized.State n w pw iw d sw tw) :
    Sized.State n w pw iw d sw tw :=
  writeFlag f (writeReg x v s)

end Sys2Proof.Machine
end

