-- ==== Sys2Proof/Machine/Alu.lean ====
section
/-! DEFINITION. The meanings of the register and arithmetic instructions (42_alu). Operands are read from
the state before any write (00_scope R10). -/

namespace Sys2Proof.Machine

variable {n w pw iw d sw tw : Nat}

/-- LD_IMM (42_alu R150). -/
def execLdImm (x : Fin n) (nn : Byte) (s : Sized.State n w pw iw d sw tw) :
    Sized.Result n w pw iw d sw tw :=
  .next (writeReg x (zext nn) s)

/-- ADD_IMM, which sets no flag (42_alu R151). -/
def execAddImm (x : Fin n) (nn : Byte) (s : Sized.State n w pw iw d sw tw) :
    Sized.Result n w pw iw d sw tw :=
  .next (writeReg x (readReg s x + zext nn) s)

/-- LD_REG (42_alu R152). -/
def execLdReg (x y : Fin n) (s : Sized.State n w pw iw d sw tw) :
    Sized.Result n w pw iw d sw tw :=
  .next (writeReg x (readReg s y) s)

/-- OR (42_alu R153). -/
def execOr (x y : Fin n) (s : Sized.State n w pw iw d sw tw) :
    Sized.Result n w pw iw d sw tw :=
  .next (writeReg x (readReg s x ||| readReg s y) s)

/-- AND (42_alu R154). -/
def execAnd (x y : Fin n) (s : Sized.State n w pw iw d sw tw) :
    Sized.Result n w pw iw d sw tw :=
  .next (writeReg x (readReg s x &&& readReg s y) s)

/-- XOR (42_alu R155). -/
def execXor (x y : Fin n) (s : Sized.State n w pw iw d sw tw) :
    Sized.Result n w pw iw d sw tw :=
  .next (writeReg x (readReg s x ^^^ readReg s y) s)

/-- ADD_REG (42_alu R156). -/
def execAddReg (x y : Fin n) (s : Sized.State n w pw iw d sw tw) :
    Sized.Result n w pw iw d sw tw :=
  let vx := readReg s x
  let vy := readReg s y
  .next (writeResultAndFlag x (vx + vy) (carry vx vy) s)

/-- SUB, `x - y` (42_alu R157). -/
def execSub (x y : Fin n) (s : Sized.State n w pw iw d sw tw) :
    Sized.Result n w pw iw d sw tw :=
  let vx := readReg s x
  let vy := readReg s y
  .next (writeResultAndFlag x (vx - vy) (notBorrow vx vy) s)

/-- SHR (42_alu R158, R159). -/
def execShr (x y : Fin n) (s : Sized.State n w pw iw d sw tw) :
    Sized.Result n w pw iw d sw tw :=
  let src := shiftSource s x y
  .next (writeResultAndFlag x (src >>> 1) (shiftedOutRight src) s)

/-- SUBN, `y - x` (42_alu R160). -/
def execSubn (x y : Fin n) (s : Sized.State n w pw iw d sw tw) :
    Sized.Result n w pw iw d sw tw :=
  let vx := readReg s x
  let vy := readReg s y
  .next (writeResultAndFlag x (vy - vx) (notBorrow vy vx) s)

/-- SHL (42_alu R158, R161). -/
def execShl (x y : Fin n) (s : Sized.State n w pw iw d sw tw) :
    Sized.Result n w pw iw d sw tw :=
  let src := shiftSource s x y
  .next (writeResultAndFlag x (src <<< 1) (shiftedOutLeft src) s)

/-- RND, with the tick's free byte RAND (42_alu R162, 40_execution_cycle R116). -/
def execRnd (x : Fin n) (nn : Byte) (s : Sized.State n w pw iw d sw tw) :
    Sized.Result n w pw iw d sw tw :=
  .next (writeReg x (zext (s.input.rand &&& nn)) s)

end Sys2Proof.Machine
end

