-- ==== Sys2Proof/Machine/Control.lean ====
section
/-! DEFINITION. The meanings of the control flow instructions (41_control_flow). -/

namespace Sys2Proof.Machine

variable {n w pw iw d sw tw : Nat}

/-- `Skip()` where the condition holds: `pc <- (pc + 2) & ADDR_MASK` (41_control_flow R130). -/
def skipIf (c : Bool) (s : Sized.State n w pw iw d sw tw) : Sized.State n w pw iw d sw tw :=
  if c then writePc (s.pc + 2) s else s

/-- SYS does nothing (41_control_flow R131); its field is unused. -/
def execSys (_nnn : Addr) (s : Sized.State n w pw iw d sw tw) :
    Sized.Result n w pw iw d sw tw :=
  .next s

/-- RET (41_control_flow R132), and its underflow (R133). -/
def execRet [NeZero d] (s : Sized.State n w pw iw d sw tw) :
    Sized.Result n w pw iw d sw tw :=
  if s.sp = 0 ∧ s.config.stackCheck = .strict then .next (raiseFault .stackUnderflow s)
  else .next (writeSp (s.sp - 1) (writePc (readStack s s.sp) s))

/-- JP (41_control_flow R134). -/
def execJp (nnn : Addr) (s : Sized.State n w pw iw d sw tw) :
    Sized.Result n w pw iw d sw tw :=
  .next (writePc (zext nnn) s)

/-- CALL (41_control_flow R135), and its overflow at the last entry (R136). -/
def execCall [NeZero d] (nnn : Addr) (s : Sized.State n w pw iw d sw tw) :
    Sized.Result n w pw iw d sw tw :=
  if s.sp = topEntry d ∧ s.config.stackCheck = .strict then .next (raiseFault .stackOverflow s)
  else .next (writePc (zext nnn) (writeStack (s.sp + 1) s.pc (writeSp (s.sp + 1) s)))

/-- SE_IMM (41_control_flow R137). -/
def execSeImm (x : Fin n) (nn : Byte) (s : Sized.State n w pw iw d sw tw) :
    Sized.Result n w pw iw d sw tw :=
  .next (skipIf (readReg s x == zext nn) s)

/-- SNE_IMM (41_control_flow R138). -/
def execSneImm (x : Fin n) (nn : Byte) (s : Sized.State n w pw iw d sw tw) :
    Sized.Result n w pw iw d sw tw :=
  .next (skipIf (readReg s x != zext nn) s)

/-- SE_REG (41_control_flow R139). -/
def execSeReg (x y : Fin n) (s : Sized.State n w pw iw d sw tw) :
    Sized.Result n w pw iw d sw tw :=
  .next (skipIf (readReg s x == readReg s y) s)

/-- SNE_REG (41_control_flow R140). -/
def execSneReg (x y : Fin n) (s : Sized.State n w pw iw d sw tw) :
    Sized.Result n w pw iw d sw tw :=
  .next (skipIf (readReg s x != readReg s y) s)

/-- JP_V0 (41_control_flow R141). -/
def execJpV0 [NeZero n] (nnn : Addr) (s : Sized.State n w pw iw d sw tw) :
    Sized.Result n w pw iw d sw tw :=
  .next (writePc (zext nnn + zext (readReg s 0)) s)

end Sys2Proof.Machine
end

