-- ==== Sys2Proof/Machine/Device.lean ====
section
/-! DEFINITION. The meanings of the display, input and timer instructions (44_display_input_timers). -/

namespace Sys2Proof.Machine

variable {n w pw iw d sw tw : Nat}

/-- CLS (44_display_input_timers R200). -/
def execCls (s : Sized.State n w pw iw d sw tw) :
    Sized.Result n w pw iw d sw tw :=
  .next (markDraw (dispClear s))

/-- DRW: the coordinates are read before VF is written, VF is the collision of the toggles, and the draw
effect is set also for a sprite of no rows (44_display_input_timers R201). -/
def execDrw (x y : Fin n) (rows : Nibble) (s : Sized.State n w pw iw d sw tw) :
    Sized.Result n w pw iw d sw tw :=
  let pixels := spritePixels s (readReg s x).toNat (readReg s y).toNat rows.toNat
  .next (markDraw (writeFlag (s.display.toggleAll pixels).2 (dispToggle pixels s)))

/-- SKP (44_display_input_timers R202). -/
def execSkp (x : Fin n) (s : Sized.State n w pw iw d sw tw) :
    Sized.Result n w pw iw d sw tw :=
  .next (skipIf (keyEquals s (readReg s x)) s)

/-- SKNP (44_display_input_timers R203). -/
def execSknp (x : Fin n) (s : Sized.State n w pw iw d sw tw) :
    Sized.Result n w pw iw d sw tw :=
  .next (skipIf (!keyEquals s (readReg s x)) s)

/-- LD_VX_DT (44_display_input_timers R204). -/
def execLdVxDt (x : Fin n) (s : Sized.State n w pw iw d sw tw) :
    Sized.Result n w pw iw d sw tw :=
  .next (writeReg x (zext s.DT) s)

/-- LD_VX_K: with no key `pc` steps back to the instruction's own address, with a key the code is stored
(44_display_input_timers R205). -/
def execLdVxK (x : Fin n) (s : Sized.State n w pw iw d sw tw) :
    Sized.Result n w pw iw d sw tw :=
  .next (match s.input.key with
    | none => writePc (s.pc - 2) s
    | some k => writeReg x (zext k) s)

/-- LD_DT_VX (44_display_input_timers R206). -/
def execLdDtVx (x : Fin n) (s : Sized.State n w pw iw d sw tw) :
    Sized.Result n w pw iw d sw tw :=
  .next (writeDT (zext (readReg s x)) s)

/-- LD_ST_VX (44_display_input_timers R207). -/
def execLdStVx (x : Fin n) (s : Sized.State n w pw iw d sw tw) :
    Sized.Result n w pw iw d sw tw :=
  .next (writeST (zext (readReg s x)) s)

end Sys2Proof.Machine
end

