-- ==== Sys2Proof/Machine/Index.lean ====
section
/-! DEFINITION. The meanings of the index register and memory instructions (43_index_memory). -/

namespace Sys2Proof.Machine

variable {n w pw iw d sw tw : Nat}

/-- `I <- I + x + 1` modulo 2^I_WIDTH, the post-advance of the block transfers (43_index_memory R186). -/
def advanceI (x : Fin n) (s : Sized.State n w pw iw d sw tw) : Sized.State n w pw iw d sw tw :=
  writeI (s.I + BitVec.ofNat _ (x.val + 1)) s

/-- LD_I (43_index_memory R180). -/
def execLdI (nnn : Addr) (s : Sized.State n w pw iw d sw tw) :
    Sized.Result n w pw iw d sw tw :=
  .next (writeI (zext nnn) s)

/-- ADD_I_VX, which writes no flag (43_index_memory R181). -/
def execAddIVx (x : Fin n) (s : Sized.State n w pw iw d sw tw) :
    Sized.Result n w pw iw d sw tw :=
  .next (writeI (s.I + zext (readReg s x)) s)

/-- LD_F_VX, the register value not reduced (43_index_memory R182). -/
def execLdFVx (x : Fin n) (s : Sized.State n w pw iw d sw tw) :
    Sized.Result n w pw iw d sw tw :=
  .next (writeI (BitVec.ofNat _ (s.params.fontBase.toNat + s.params.glyphBytes * (readReg s x).toNat)) s)

/-- LD_B_VX (43_index_memory R183). -/
def execLdBVx (x : Fin n) (s : Sized.State n w pw iw d sw tw) :
    Sized.Result n w pw iw d sw tw :=
  .next (storeBytes (zext s.I) (bcdDigits (readReg s x)) s)

/-- LD_MEM_VX (43_index_memory R184). -/
def execLdMemVx (x : Fin n) (s : Sized.State n w pw iw d sw tw) :
    Sized.Result n w pw iw d sw tw :=
  .next (advanceI x (storeBytes (zext s.I) (regsUpTo s x) s))

/-- LD_VX_MEM (43_index_memory R185). -/
def execLdVxMem (x : Fin n) (s : Sized.State n w pw iw d sw tw) :
    Sized.Result n w pw iw d sw tw :=
  .next (advanceI x (loadRegs x s))

end Sys2Proof.Machine
end

