-- ==== Sys2Proof/Machine/Cycle.lean ====
section
/-! DEFINITION. The steps of a tick around the execution of its instruction: input sample and fetch,
observation, advance, timers, frame notification (40_execution_cycle R102 to R109). -/

namespace Sys2Proof.Machine

variable {n w pw iw d sw tw : Nat}

/-- The instruction fetch: the bytes at `pc` and `pc + 1`, high byte first (20_memory R52, R53). -/
def fetchWord (s : Sized.State n w pw iw d sw tw) : Word := memRead s (zext s.pc) ++ memRead s (zext s.pc + 1)

/-- What the outside world presents to the coming tick: what the host has fixed, or else the free values
and no override (40_execution_cycle R100, R115, R116; log entry 3). -/
def presented (s : Sized.State n w pw iw d sw tw) : TickInput :=
  match s.pending with
  | [] => { overrideWord := none, key := Config.freeKey s.sampleNo, rand := Config.freeRand s.sampleNo }
  | sample :: _ => sample

/-- The input sample of the coming tick: what is presented, a key code on its KEY_WIDTH bits
(40_execution_cycle R100, R115; log entry 11). -/
def nextInput (s : Sized.State n w pw iw d sw tw) : TickInput :=
  { presented s with key := (presented s).key.map fun k => k &&& keyMask s.params }

/-- The word the coming tick executes: the override if one is supplied, else the fetch; an override
reads no memory (40_execution_cycle R103). -/
def tickWord (s : Sized.State n w pw iw d sw tw) : Word :=
  match (nextInput s).overrideWord with
  | some op => op
  | none => fetchWord s

/-- Step 1 of a tick: samples the inputs, notes `a` and `op`, with no output emitted yet
(40_execution_cycle R102, R103). -/
def beginTick (s : Sized.State n w pw iw d sw tw) : Sized.State n w pw iw d sw tw :=
  { s with
    input := nextInput s, pending := s.pending.tail, sampleNo := s.sampleNo + 1,
    insnAddr := s.pc, insnWord := tickWord s, out := Sized.Outputs.none }

/-- The observer's snapshot of the tick in progress (60_exceptions R245). -/
def snapshot (i : Instr) (s : Sized.State n w pw iw d sw tw) : Sized.Snapshot n w pw iw sw tw :=
  { pc := s.insnAddr, sp := s.sp, I := s.I, V := s.V, DT := s.DT, ST := s.ST,
    opcode := s.insnWord, insn := i }

/-- Step 3: the observer event, where an observer is attached (40_execution_cycle R105). -/
def observe (i : Instr) (s : Sized.State n w pw iw d sw tw) : Sized.State n w pw iw d sw tw :=
  { s with out := { s.out with obs := if s.config.observer then some (snapshot i s) else none } }

/-- Step 4, and the draw-effect latch cleared at the start of step 5: `pc <- (a + 2) & ADDR_MASK`
(40_execution_cycle R106, R107). -/
def advance (s : Sized.State n w pw iw d sw tw) : Sized.State n w pw iw d sw tw :=
  { writePc (s.insnAddr + 2) s with draw := false }

/-- A timer after one decrement, never below 0 (10_state R27). -/
def countDown (v : BitVec w) : BitVec w := if v = 0 then 0 else v - 1

/-- Step 6: both timers, and one beep when `ST` goes from 1 to 0 (40_execution_cycle R108). -/
def timers (s : Sized.State n w pw iw d sw tw) : Sized.State n w pw iw d sw tw :=
  { s with DT := countDown s.DT, ST := countDown s.ST, out := { s.out with beep := s.ST == 1 } }

/-- Step 7: the end-of-frame notification if the draw effect was set; the latch does not outlive the
tick (40_execution_cycle R109). -/
def notifyFrame (s : Sized.State n w pw iw d sw tw) : Sized.State n w pw iw d sw tw :=
  { s with draw := false, out := { s.out with frameComplete := s.draw } }

/-- Steps 6 and 7, which a tick that faulted does not run (40_execution_cycle R102, R110). -/
def endTick (s : Sized.State n w pw iw d sw tw) : Sized.State n w pw iw d sw tw :=
  if s.fault.isSome then s else notifyFrame (timers s)

/-- A loop iteration that performs no tick: nothing changes and nothing is emitted
(40_execution_cycle R111, R113). -/
def noTick (s : Sized.State n w pw iw d sw tw) : Sized.State n w pw iw d sw tw :=
  { s with out := Sized.Outputs.none }

end Sys2Proof.Machine
end

