-- ==== Sys2Proof/Machine/HostActions.lean ====
section
/-! DEFINITION. What the host does to the machine between ticks: construction, reset, program load, the
halted flag, the input samples (70_reset_and_hazards R260 to R263, 40_execution_cycle R111), and the
placing of one instruction word where the next tick fetches. -/

namespace Sys2Proof.Machine

variable {n w pw iw d sw tw : Nat}

/-- Construction with the parameters, a configuration and the display's content: refused where the clock
frequency is not positive, else the reset state with no program (60_exceptions R236, R247;
70_reset_and_hazards R263). -/
def construct (p : Sized.Parameters n) (shiftQuirk : Bool) (clockHz : Int) (stackCheck : StackPolicy)
    (observer : Bool) (displayInit : Plane) : Except HostError (Sized.State n w pw iw d sw tw) :=
  if clockHz ≤ 0 then .error .invalidConfig
  else .ok (Sized.State.initial p ⟨shiftQuirk, clockHz.toNat, stackCheck, observer⟩ displayInit)

/-- Reset: every piece of the core's state takes its value of 10_state R34; the parameters,
the configuration, the halted flag and the display stay (70_reset_and_hazards R261; 60_exceptions R247),
and so do the samples the host has fixed, which are no state of the core (log entry 3). -/
def resetCore (s : Sized.State n w pw iw d sw tw) : Sized.State n w pw iw d sw tw :=
  { Sized.State.initial s.params s.config s.display with
    halted := s.halted, pending := s.pending, sampleNo := s.sampleNo }

/-- `Load(bytes)`: the size check first, then a full reset, then the bytes from the program origin on
(70_reset_and_hazards R262; 60_exceptions R237). -/
def load (bytes : List Byte) (s : Sized.State n w pw iw d sw tw) :
    Except HostError (Sized.State n w pw iw d sw tw) :=
  if s.params.memSize < s.params.programOrigin.toNat + bytes.length then .error .programTooLarge
  else .ok (storeBytes s.params.programOrigin bytes (resetCore s))

/-- The host sets or clears the halted flag (40_execution_cycle R111). -/
def setHalted (b : Bool) (s : Sized.State n w pw iw d sw tw) : Sized.State n w pw iw d sw tw :=
  { s with halted := b }

/-- The host fixes the sample of a coming tick (40_execution_cycle R100; log entry 3). -/
def supplyInput (sample : TickInput) (s : Sized.State n w pw iw d sw tw) : Sized.State n w pw iw d sw tw :=
  { s with pending := s.pending ++ [sample] }

/-- The samples with the first one's override taken away, so that the next tick fetches
(40_execution_cycle R103). -/
def withoutOverride (samples : List TickInput) : List TickInput :=
  match samples with
  | [] => []
  | sample :: rest => { sample with overrideWord := none } :: rest

/-- The state whose next tick fetches and runs `op`: its two bytes at `pc`, the high one first
(20_memory R53), the core ticking (40_execution_cycle R114) and no override. -/
def placeWord (op : Word) (s : Sized.State n w pw iw d sw tw) : Sized.State n w pw iw d sw tw :=
  { storeBytes (zext s.pc) [op.extractLsb' 8 8, op.extractLsb' 0 8] s with
    fault := none, halted := false, pending := withoutOverride s.pending }

end Sys2Proof.Machine
end

