-- ==== Sys2Proof/Decode.lean ====
section
/-! DEFINITION. The opcode catalog, the disassembler and the encoder of 30_encoding R70 to R83.
The catalog is data built from the templates; the disassembler tests every entry and takes the match
with the most mask bits. -/

namespace Sys2Proof

/-- One nibble of a template: a literal digit or a variable (30_encoding R70). -/
inductive Nib where
  | lit (d : Nibble)
  | X
  | Y
  | N
  deriving DecidableEq, Repr

/-- A template of four nibbles, the top one first (30_encoding R70, R72). -/
structure Template where
  n3 : Nib
  n2 : Nib
  n1 : Nib
  n0 : Nib
  deriving DecidableEq, Repr

/-- A template's nibbles with their positions, the lowest first. -/
def Template.nibbles (t : Template) : List (Nat × Nib) :=
  [(0, t.n0), (1, t.n1), (2, t.n2), (3, t.n3)]

/-- The mask of nibble `k`: `0xF << 4k` (30_encoding R72, R73). -/
def nibbleMask (k : Nat) : Word := 0x000F#16 <<< (4 * k)

/-- OR of 0xF at each literal-digit nibble position (30_encoding R72). -/
def Template.fixedMask (t : Template) : Word :=
  t.nibbles.foldr (fun kn m => match kn.2 with | .lit _ => nibbleMask kn.1 ||| m | _ => m) 0

/-- The literal digits with the variables zeroed (30_encoding R72). -/
def Template.fixedValue (t : Template) : Word :=
  t.nibbles.foldr (fun kn m => match kn.2 with | .lit d => (d.setWidth 16 <<< (4 * kn.1)) ||| m | _ => m) 0

/-- The union mask of the nibbles of variable `v` (30_encoding R73, R74); 0 where the template has none. -/
def Template.fieldMask (t : Template) (v : Nib) : Word :=
  t.nibbles.foldr (fun kn m => if kn.2 = v then nibbleMask kn.1 ||| m else m) 0

/-- The shift of the lowest nibble of variable `v` (30_encoding R73, R74); 0 where the template has none. -/
def Template.fieldShift (t : Template) (v : Nib) : Nat :=
  t.nibbles.foldr (fun kn k => if kn.2 = v then 4 * kn.1 else k) 0

/-- The catalog's pattern ids, one per instruction (30_encoding R71, R75). -/
inductive Pattern where
  | sys | cls | ret | jp | call | seImm | sneImm
  | seReg | ldImm | addImm | ldReg | or | and | xor
  | addReg | sub | shr | subn | shl | sneReg | ldI
  | jpV0 | rnd | drw | skp | sknp | ldVxDt | ldVxK
  | ldDtVx | ldStVx | addIVx | ldFVx | ldBVx | ldMemVx | ldVxMem
  deriving DecidableEq, Repr

/-- The mask and the shift of one variable (30_encoding R71). -/
structure Field where
  mask  : Word
  shift : Nat
  deriving DecidableEq, Repr

/-- A catalog entry: "pattern id, fixed-nibble mask, fixed-nibble value, per-variable mask+shift"
(30_encoding R71). -/
structure Entry where
  pattern    : Pattern
  fixedMask  : Word
  fixedValue : Word
  x          : Field
  y          : Field
  n          : Field
  deriving DecidableEq, Repr

/-- The catalog entry of a template (30_encoding R72 to R74). -/
def Entry.ofTemplate (p : Pattern) (t : Template) : Entry :=
  { pattern := p, fixedMask := t.fixedMask, fixedValue := t.fixedValue,
    x := ⟨t.fieldMask .X, t.fieldShift .X⟩,
    y := ⟨t.fieldMask .Y, t.fieldShift .Y⟩,
    n := ⟨t.fieldMask .N, t.fieldShift .N⟩ }

/-- Rows 1 to 18 of the catalog (30_encoding R75). -/
def templatesLow : List (Pattern × Template) := [
  (.sys, ⟨.lit 0x0, .N, .N, .N⟩),
  (.cls, ⟨.lit 0x0, .lit 0x0, .lit 0xE, .lit 0x0⟩),
  (.ret, ⟨.lit 0x0, .lit 0x0, .lit 0xE, .lit 0xE⟩),
  (.jp, ⟨.lit 0x1, .N, .N, .N⟩),
  (.call, ⟨.lit 0x2, .N, .N, .N⟩),
  (.seImm, ⟨.lit 0x3, .X, .N, .N⟩),
  (.sneImm, ⟨.lit 0x4, .X, .N, .N⟩),
  (.seReg, ⟨.lit 0x5, .X, .Y, .lit 0x0⟩),
  (.ldImm, ⟨.lit 0x6, .X, .N, .N⟩),
  (.addImm, ⟨.lit 0x7, .X, .N, .N⟩),
  (.ldReg, ⟨.lit 0x8, .X, .Y, .lit 0x0⟩),
  (.or, ⟨.lit 0x8, .X, .Y, .lit 0x1⟩),
  (.and, ⟨.lit 0x8, .X, .Y, .lit 0x2⟩),
  (.xor, ⟨.lit 0x8, .X, .Y, .lit 0x3⟩),
  (.addReg, ⟨.lit 0x8, .X, .Y, .lit 0x4⟩),
  (.sub, ⟨.lit 0x8, .X, .Y, .lit 0x5⟩),
  (.shr, ⟨.lit 0x8, .X, .Y, .lit 0x6⟩),
  (.subn, ⟨.lit 0x8, .X, .Y, .lit 0x7⟩)]

/-- Rows 19 to 35 of the catalog (30_encoding R75). -/
def templatesHigh : List (Pattern × Template) := [
  (.shl, ⟨.lit 0x8, .X, .Y, .lit 0xE⟩),
  (.sneReg, ⟨.lit 0x9, .X, .Y, .lit 0x0⟩),
  (.ldI, ⟨.lit 0xA, .N, .N, .N⟩),
  (.jpV0, ⟨.lit 0xB, .N, .N, .N⟩),
  (.rnd, ⟨.lit 0xC, .X, .N, .N⟩),
  (.drw, ⟨.lit 0xD, .X, .Y, .N⟩),
  (.skp, ⟨.lit 0xE, .X, .lit 0x9, .lit 0xE⟩),
  (.sknp, ⟨.lit 0xE, .X, .lit 0xA, .lit 0x1⟩),
  (.ldVxDt, ⟨.lit 0xF, .X, .lit 0x0, .lit 0x7⟩),
  (.ldVxK, ⟨.lit 0xF, .X, .lit 0x0, .lit 0xA⟩),
  (.ldDtVx, ⟨.lit 0xF, .X, .lit 0x1, .lit 0x5⟩),
  (.ldStVx, ⟨.lit 0xF, .X, .lit 0x1, .lit 0x8⟩),
  (.addIVx, ⟨.lit 0xF, .X, .lit 0x1, .lit 0xE⟩),
  (.ldFVx, ⟨.lit 0xF, .X, .lit 0x2, .lit 0x9⟩),
  (.ldBVx, ⟨.lit 0xF, .X, .lit 0x3, .lit 0x3⟩),
  (.ldMemVx, ⟨.lit 0xF, .X, .lit 0x5, .lit 0x5⟩),
  (.ldVxMem, ⟨.lit 0xF, .X, .lit 0x6, .lit 0x5⟩)]

/-- The catalog, "built once at startup and never mutated" (30_encoding R71, R75; 10_state R32). -/
def catalog : List Entry :=
  (templatesLow ++ templatesHigh).map fun pt => Entry.ofTemplate pt.1 pt.2

/-- The number of set bits of a mask (30_encoding R77). -/
def popcount (w : Word) : Nat := (List.range 16).countP w.getLsbD

/-- An entry matches "iff `(opcode & entry.fixed_mask) == entry.fixed_value`" (30_encoding R76). -/
def Entry.matchesWord (e : Entry) (op : Word) : Bool := op &&& e.fixedMask == e.fixedValue

/-- A field's value, `(opcode & field_mask) >> field_shift` (30_encoding R79). -/
def Field.read (f : Field) (op : Word) : Word := (op &&& f.mask) >>> f.shift

/-- The register a field value names (10_state R20). -/
def regOfField (w : Word) : Reg := Fin.ofNat _ w.toNat

/-- The instruction of a pattern with the values of its fields X, Y and N (30_encoding R75, R79). -/
def Pattern.instr (p : Pattern) (x y n : Word) : Instr :=
  match p, x, y, n with
  | .sys, _, _, n => .sys (n.setWidth 12)
  | .cls, _, _, _ => .cls
  | .ret, _, _, _ => .ret
  | .jp, _, _, n => .jp (n.setWidth 12)
  | .call, _, _, n => .call (n.setWidth 12)
  | .seImm, x, _, n => .seImm (regOfField x) (n.setWidth 8)
  | .sneImm, x, _, n => .sneImm (regOfField x) (n.setWidth 8)
  | .seReg, x, y, _ => .seReg (regOfField x) (regOfField y)
  | .ldImm, x, _, n => .ldImm (regOfField x) (n.setWidth 8)
  | .addImm, x, _, n => .addImm (regOfField x) (n.setWidth 8)
  | .ldReg, x, y, _ => .ldReg (regOfField x) (regOfField y)
  | .or, x, y, _ => .or (regOfField x) (regOfField y)
  | .and, x, y, _ => .and (regOfField x) (regOfField y)
  | .xor, x, y, _ => .xor (regOfField x) (regOfField y)
  | .addReg, x, y, _ => .addReg (regOfField x) (regOfField y)
  | .sub, x, y, _ => .sub (regOfField x) (regOfField y)
  | .shr, x, y, _ => .shr (regOfField x) (regOfField y)
  | .subn, x, y, _ => .subn (regOfField x) (regOfField y)
  | .shl, x, y, _ => .shl (regOfField x) (regOfField y)
  | .sneReg, x, y, _ => .sneReg (regOfField x) (regOfField y)
  | .ldI, _, _, n => .ldI (n.setWidth 12)
  | .jpV0, _, _, n => .jpV0 (n.setWidth 12)
  | .rnd, x, _, n => .rnd (regOfField x) (n.setWidth 8)
  | .drw, x, y, n => .drw (regOfField x) (regOfField y) (n.setWidth 4)
  | .skp, x, _, _ => .skp (regOfField x)
  | .sknp, x, _, _ => .sknp (regOfField x)
  | .ldVxDt, x, _, _ => .ldVxDt (regOfField x)
  | .ldVxK, x, _, _ => .ldVxK (regOfField x)
  | .ldDtVx, x, _, _ => .ldDtVx (regOfField x)
  | .ldStVx, x, _, _ => .ldStVx (regOfField x)
  | .addIVx, x, _, _ => .addIVx (regOfField x)
  | .ldFVx, x, _, _ => .ldFVx (regOfField x)
  | .ldBVx, x, _, _ => .ldBVx (regOfField x)
  | .ldMemVx, x, _, _ => .ldMemVx (regOfField x)
  | .ldVxMem, x, _, _ => .ldVxMem (regOfField x)

/-- Why a word is no instruction: no entry matches (30_encoding R80), or two entries tie, which no word
of this catalog does (30_encoding R78). Each carries the word. -/
inductive DecodeError where
  | noMatch (op : Word)
  | tie (op : Word)
  deriving DecidableEq, Repr

/-- The instruction an entry reads from a word: its pattern with its own fields (30_encoding R79). -/
def Entry.read (e : Entry) (op : Word) : Instr :=
  e.pattern.instr (e.x.read op) (e.y.read op) (e.n.read op)

/-- The entries that match a word; every entry is considered (30_encoding R76). -/
def candidates (cat : List Entry) (op : Word) : List Entry := cat.filter (·.matchesWord op)

/-- The largest popcount of the entries' masks (30_encoding R77). -/
def mostSpecific (es : List Entry) : Nat := es.foldr (fun e b => max (popcount e.fixedMask) b) 0

/-- The disassembler over any catalog: of the entries that match, the one whose mask has the most set
bits (30_encoding R77); none is `noMatch` (R80) and a tie is refused (R78). -/
def disassembleWith (cat : List Entry) (op : Word) : Except DecodeError Instr :=
  let es := candidates cat op
  match es.filter (fun e => popcount e.fixedMask == mostSpecific es) with
  | [] => .error (.noMatch op)
  | [e] => .ok (e.read op)
  | _ => .error (.tie op)

/-- `Disassemble(op)`, total over the 65,536 words (30_encoding R76 to R83). -/
def disassemble (op : Word) : Except DecodeError Instr := disassembleWith catalog op

/-- The decoder on the two bytes of an instruction, the one at the lower address first
(20_memory R52). -/
def decodeBytes (hi lo : Byte) : Except DecodeError Instr := disassemble (hi ++ lo)

/-- The four bits that name a register in a word (30_encoding R73). -/
def regBits (r : Reg) : Nibble := BitVec.ofNat 4 r.val

/-- The word of an instruction, nibble by nibble as its template stands in 30_encoding R75. -/
def encode (i : Instr) : Word :=
  match i with
  | .sys nnn => 0x0#4 ++ nnn
  | .cls => 0x0#4 ++ 0x0#4 ++ 0xE#4 ++ 0x0#4
  | .ret => 0x0#4 ++ 0x0#4 ++ 0xE#4 ++ 0xE#4
  | .jp nnn => 0x1#4 ++ nnn
  | .call nnn => 0x2#4 ++ nnn
  | .seImm x nn => 0x3#4 ++ regBits x ++ nn
  | .sneImm x nn => 0x4#4 ++ regBits x ++ nn
  | .seReg x y => 0x5#4 ++ regBits x ++ regBits y ++ 0x0#4
  | .ldImm x nn => 0x6#4 ++ regBits x ++ nn
  | .addImm x nn => 0x7#4 ++ regBits x ++ nn
  | .ldReg x y => 0x8#4 ++ regBits x ++ regBits y ++ 0x0#4
  | .or x y => 0x8#4 ++ regBits x ++ regBits y ++ 0x1#4
  | .and x y => 0x8#4 ++ regBits x ++ regBits y ++ 0x2#4
  | .xor x y => 0x8#4 ++ regBits x ++ regBits y ++ 0x3#4
  | .addReg x y => 0x8#4 ++ regBits x ++ regBits y ++ 0x4#4
  | .sub x y => 0x8#4 ++ regBits x ++ regBits y ++ 0x5#4
  | .shr x y => 0x8#4 ++ regBits x ++ regBits y ++ 0x6#4
  | .subn x y => 0x8#4 ++ regBits x ++ regBits y ++ 0x7#4
  | .shl x y => 0x8#4 ++ regBits x ++ regBits y ++ 0xE#4
  | .sneReg x y => 0x9#4 ++ regBits x ++ regBits y ++ 0x0#4
  | .ldI nnn => 0xA#4 ++ nnn
  | .jpV0 nnn => 0xB#4 ++ nnn
  | .rnd x nn => 0xC#4 ++ regBits x ++ nn
  | .drw x y n => 0xD#4 ++ regBits x ++ regBits y ++ n
  | .skp x => 0xE#4 ++ regBits x ++ 0x9#4 ++ 0xE#4
  | .sknp x => 0xE#4 ++ regBits x ++ 0xA#4 ++ 0x1#4
  | .ldVxDt x => 0xF#4 ++ regBits x ++ 0x0#4 ++ 0x7#4
  | .ldVxK x => 0xF#4 ++ regBits x ++ 0x0#4 ++ 0xA#4
  | .ldDtVx x => 0xF#4 ++ regBits x ++ 0x1#4 ++ 0x5#4
  | .ldStVx x => 0xF#4 ++ regBits x ++ 0x1#4 ++ 0x8#4
  | .addIVx x => 0xF#4 ++ regBits x ++ 0x1#4 ++ 0xE#4
  | .ldFVx x => 0xF#4 ++ regBits x ++ 0x2#4 ++ 0x9#4
  | .ldBVx x => 0xF#4 ++ regBits x ++ 0x3#4 ++ 0x3#4
  | .ldMemVx x => 0xF#4 ++ regBits x ++ 0x5#4 ++ 0x5#4
  | .ldVxMem x => 0xF#4 ++ regBits x ++ 0x6#4 ++ 0x5#4

/-- The pattern of an instruction (30_encoding R75). -/
def Instr.pattern (i : Instr) : Pattern :=
  match i with
  | .sys _ => .sys
  | .cls => .cls
  | .ret => .ret
  | .jp _ => .jp
  | .call _ => .call
  | .seImm _ _ => .seImm
  | .sneImm _ _ => .sneImm
  | .seReg _ _ => .seReg
  | .ldImm _ _ => .ldImm
  | .addImm _ _ => .addImm
  | .ldReg _ _ => .ldReg
  | .or _ _ => .or
  | .and _ _ => .and
  | .xor _ _ => .xor
  | .addReg _ _ => .addReg
  | .sub _ _ => .sub
  | .shr _ _ => .shr
  | .subn _ _ => .subn
  | .shl _ _ => .shl
  | .sneReg _ _ => .sneReg
  | .ldI _ => .ldI
  | .jpV0 _ => .jpV0
  | .rnd _ _ => .rnd
  | .drw _ _ _ => .drw
  | .skp _ => .skp
  | .sknp _ => .sknp
  | .ldVxDt _ => .ldVxDt
  | .ldVxK _ => .ldVxK
  | .ldDtVx _ => .ldDtVx
  | .ldStVx _ => .ldStVx
  | .addIVx _ => .addIVx
  | .ldFVx _ => .ldFVx
  | .ldBVx _ => .ldBVx
  | .ldMemVx _ => .ldMemVx
  | .ldVxMem _ => .ldVxMem

/-- The instruction the decoder reads from a word as spec/opcode_table.json numbers its bits: one
big-endian 16-bit word (20_memory R52, 30_encoding R70). -/
def decodeTableWord (nbits w : Nat) : Option Instr :=
  let op : Word := BitVec.ofNat 16 (w % 2 ^ nbits)
  match decodeBytes (op.extractLsb' 8 8) (op.extractLsb' 0 8) with
  | .ok i => some i
  | .error _ => none

end Sys2Proof
end

