-- ==== Sys2Proof/Machine/Tick.lean ====
section
/-! DEFINITION. One tick, and one iteration of the run loop: a tick, unless the host holds the halted flag
or the fault latch is set (40_execution_cycle R102, R111 to R113). -/

namespace Sys2Proof.Machine

variable {n w pw iw d sw tw : Nat}

/-- Steps 3 to 7 of a tick whose word decoded to `i`, with `run` for step 5 (40_execution_cycle R102). -/
def runInstr (run : Instr → Sized.State n w pw iw d sw tw → Sized.Result n w pw iw d sw tw) (i : Instr)
    (s : Sized.State n w pw iw d sw tw) : Sized.Result n w pw iw d sw tw :=
  match run i (advance (observe i s)) with
  | .next t => .next (endTick t)
  | .fault r => .fault r
  | .refused r => .refused r

/-- One tick: fetch, decode, and then either the instruction or the DECODE fault
(40_execution_cycle R102 to R104). -/
def tick (run : Instr → Sized.State n w pw iw d sw tw → Sized.Result n w pw iw d sw tw)
    (s : Sized.State n w pw iw d sw tw) : Sized.Result n w pw iw d sw tw :=
  let begun := beginTick s
  match disassemble begun.insnWord with
  | .ok i => runInstr run i begun
  | .error _ => .next (raiseFault .decode begun)

/-- One iteration of the run loop (40_execution_cycle R112): no tick while halted (R111) or faulted
(R113). -/
def loopIteration (run : Instr → Sized.State n w pw iw d sw tw → Sized.Result n w pw iw d sw tw)
    (s : Sized.State n w pw iw d sw tw) : Sized.Result n w pw iw d sw tw :=
  if s.halted || s.fault.isSome then .next (noTick s) else tick run s

end Sys2Proof.Machine
end

