-- ==== Sys2Proof/Machine/Step.lean ====
section
/-! DEFINITION. The step of the machine: one iteration of the run loop (40_execution_cycle R112). -/

namespace Sys2Proof.Machine

/-- One step is one iteration of the run loop: one tick, or none while halted or faulted
(40_execution_cycle R111 to R113). -/
def step (s : State) : Host.Outcome State Fault Refusal :=
  loopIteration exec s

/-- `s` with the table word `w` where `step` fetches its next instruction (log entry 9). -/
def State.withFetchWord (s : State) (nbits w : Nat) : State := placeWord (BitVec.ofNat 16 (w % 2 ^ nbits)) s

end Sys2Proof.Machine
end

