-- ==== Sys2Proof/Safety.lean ====
section
/-! DEFINITION. The terms claims use: a ticking core, the core's own state, the invariant of the machine,
and the states some history of ticks and host actions leads to. -/

namespace Sys2Proof

open Sys2Proof.Machine

/-- The RUN state: neither halted nor faulted, so that a loop iteration performs a tick
(40_execution_cycle R114). -/
def Running (s : State) : Prop := s.halted = false ∧ s.fault = none

/-- A safe state: no fault is latched (60_exceptions R231). -/
def Safe (s : State) : Prop := s.fault = none

/-- The end of a run: the coming tick would run `JP a` at its own address `a`. The machine itself goes on
(92_eei_decisions D42, 70_reset_and_hazards R264). D42 says "about to fetch"; that an override `JP a`, which is
not fetched (40_execution_cycle R103), counts as well, and that a stopped core is at no end, is the model's choice
(DESIGN CHOICE, log entry 16). -/
def AtSelfJump (s : State) : Prop :=
  Running s ∧ ∃ a : Addr, disassemble (tickWord s) = .ok (.jp a) ∧ a.toNat = s.pc.toNat

/-- The registers, stack, timers, memory, parameters, configuration, halted flag and display of two states
agree, and so does the fault latch. Left out are the draw-effect latch, which lives inside a tick, and what
is no state of the core: the input samples, the instruction in progress and the outputs. -/
structure SameCore (s t : State) : Prop where
  V       : t.V = s.V
  pc      : t.pc = s.pc
  I       : t.I = s.I
  stack   : t.stack = s.stack
  sp      : t.sp = s.sp
  DT      : t.DT = s.DT
  ST      : t.ST = s.ST
  mem     : t.mem = s.mem
  fault   : t.fault = s.fault
  params  : t.params = s.params
  config  : t.config = s.config
  halted  : t.halted = s.halted
  display : t.display = s.display

/-- A fault record tells what happened in the state it is latched in: `pc` still holds the address
(60_exceptions R239), and the word and the stack pointer show the cause of the code (R232). -/
def FaultExplained (s : State) (r : FaultRecord) : Prop :=
  r.pc = s.pc ∧
  match r.code with
  | .decode => ∃ e, disassemble r.opcode = .error e
  | .stackOverflow => s.sp = 15 ∧ s.config.stackCheck = .strict ∧ ∃ n, disassemble r.opcode = .ok (.call n)
  | .stackUnderflow => s.sp = 0 ∧ s.config.stackCheck = .strict ∧ disassemble r.opcode = .ok .ret

/-- What every state between ticks satisfies. -/
structure Inv (s : State) : Prop where
  /-- Memory is in its canonical form. -/
  memory : s.mem.wf s.params
  /-- `pc < 0x1000` holds in every state (10_state R22), 0x1000 being MEM_SIZE. -/
  pc : s.pc.toNat < s.params.memSize
  /-- Every stack entry is below 0x1000 (10_state R25, R34). -/
  stack : ∀ j : Fin (delta% Config.stackDepth), s.stack[j].toNat < s.params.memSize
  /-- The draw effect does not outlive its tick (40_execution_cycle R109). -/
  draw : s.draw = false
  /-- The clock frequency is positive (10_state R29). -/
  clock : 0 < s.config.clockHz
  /-- The parameters fit together (00_scope R5, 20_memory R51, 60_exceptions R247). -/
  params : s.params.Wf
  /-- The display's plane is in its canonical form (60_exceptions R247). -/
  display : s.display.wf s.params
  /-- A key code has KEY_WIDTH bits (40_execution_cycle R115). -/
  key : ∀ k, s.input.key = some k → k.toNat < 2 ^ s.params.keyWidth
  /-- A latched fault is explained by the state it stands in (60_exceptions R232, R239). -/
  fault : ∀ r, s.fault = some r → FaultExplained s r

/-- The states that construction, steps and host actions lead to (70_reset_and_hazards R260 to R263,
40_execution_cycle R111, R112). -/
inductive Reachable : State → Prop where
  | construct {p q hz c o d s} : p.Wf → d.wf p → construct p q hz c o d = .ok s → Reachable s
  | step {s t} : Reachable s → step s = .next t → Reachable t
  | reset {s} : Reachable s → Reachable (resetCore s)
  | load {s t bytes} : Reachable s → load bytes s = .ok t → Reachable t
  | halt {s b} : Reachable s → Reachable (setHalted b s)
  | supply {s sample} : Reachable s → Reachable (supplyInput sample s)

end Sys2Proof
end

