-- ==== Sys2Proof/WellFormed.lean ====
section
/-! DEFINITION. Which instructions some word decodes to. The field widths are in the types, so the only
terms without a word are SYS at the two words CLS and RET win (30_encoding R77, R79). -/

namespace Sys2Proof

/-- `i` is what some word decodes to: SYS is not written at 0x00E0 or 0x00EE (30_encoding R77). -/
def WellFormed : Instr → Bool
  | .sys nnn => nnn != 0x0E0 && nnn != 0x0EE
  | .cls | .ret | .jp _ | .call _ => true
  | .seImm _ _ | .sneImm _ _ | .seReg _ _ | .sneReg _ _ => true
  | .ldImm _ _ | .addImm _ _ | .ldReg _ _ | .or _ _ | .and _ _ | .xor _ _ => true
  | .addReg _ _ | .sub _ _ | .shr _ _ | .subn _ _ | .shl _ _ | .rnd _ _ => true
  | .ldI _ | .jpV0 _ | .drw _ _ _ | .skp _ | .sknp _ => true
  | .ldVxDt _ | .ldVxK _ | .ldDtVx _ | .ldStVx _ => true
  | .addIVx _ | .ldFVx _ | .ldBVx _ | .ldMemVx _ | .ldVxMem _ => true

end Sys2Proof
end

