-- ==== Sys2Proof/Certificates/Slice0/Obligations.lean ====
section
/-! DEFINITION. The statements for the provers, from the numbered rules of spec/. A statement about `exec`
is about step 5 of a tick, where `pc` is already advanced (40_execution_cycle R107); a statement about
`step` is about a whole tick. -/

open Sys2Proof Sys2Proof.Machine

namespace Sys2Proof.Claims

/-- `t` is `s` with the register `x` holding `v`, and nothing else changed. -/
def WritesReg (s t : State) (x : Reg) (v : Byte) : Prop :=
  t.V[x] = v ∧ (∀ r : Reg, r ≠ x → t.V[r] = s.V[r]) ∧ t = { s with V := t.V }

/-- `t` is `s` with a result in the register `x` and a flag in the flag register VF, the flag winning where
`x` is VF, and nothing else changed. -/
def WritesRegAndFlag (s t : State) (x : Reg) (result : Nat) (flag : Prop) : Prop :=
  (x ≠ s.params.flagReg → t.V[x].toNat = result) ∧
  (flag → t.V[s.params.flagReg] = 1) ∧ (¬flag → t.V[s.params.flagReg] = 0) ∧
  (∀ r : Reg, r ≠ x → r ≠ s.params.flagReg → t.V[r] = s.V[r]) ∧ t = { s with V := t.V }

/-- `pc` after a jump to NNN, which the 12 bits of this hardware's ADDR_MASK leave as it is. -/
def JumpsTo (s t : State) (nnn : Addr) : Prop :=
  t.pc = nnn.setWidth 16 &&& s.params.addrMask ∧ (s.params.addrMask = 0x0FFF → t.pc.toNat = nnn.toNat)

/-- `t` is `s` with `pc` two further, masked, where `c` holds, and with nothing changed where it does not. -/
def SkipsIff (s t : State) (c : Prop) : Prop :=
  (c → t.pc = (s.pc + 2) &&& s.params.addrMask) ∧ (¬c → t.pc = s.pc) ∧ t = { s with pc := t.pc }

/-- The source of a shift as 42_alu R158 gives it. -/
def shiftSourceIs (s : State) (x y : Reg) (src : Byte) : Prop :=
  (s.config.shiftQuirk = true → src = s.V[y]) ∧ (s.config.shiftQuirk = false → src = s.V[x])

/-- The sprite of `DRW x y n` has a 1 bit that lands on pixel `(px, py)`: row `r`, column `c` from the
left (44_display_input_timers R201). -/
def Covers (s : State) (x y : Reg) (n : Nibble) (px py : Nat) : Prop :=
  ∃ r c : Nat, r < n.toNat ∧ c < 8 ∧ (memRead s (effAddr s r)).getLsbD (7 - c) = true ∧
    px = (s.V[x].toNat + c) % s.params.displayWidth ∧ py = (s.V[y].toNat + r) % s.params.displayHeight

/-- The requests of `DRW x y n` by the loop of 44_display_input_timers R201: for each row, for each column
from the left, a toggle where the sprite's bit is 1. -/
def drawRequests (s : State) (x y : Reg) (n : Nibble) : List DisplayRequest :=
  let cells := (List.range n.toNat).flatMap fun r => (List.range 8).map fun c => (r, c)
  let ones := cells.filter fun rc => (memRead s (effAddr s rc.1)).getLsbD (7 - rc.2)
  ones.map fun rc =>
    DisplayRequest.togglePixel ((s.V[x].toNat + rc.2) % s.params.displayWidth)
      ((s.V[y].toNat + rc.1) % s.params.displayHeight)

/-- The tick of `s` decodes to `i` (40_execution_cycle R104). -/
def Decodes (s : State) (i : Instr) : Prop := disassemble (tickWord s) = .ok i

/-- The address `a` is outside a program of `len` bytes at the origin of `p`. -/
def OutsideProgram (p : Parameters) (len a : Nat) : Prop :=
  a < p.programOrigin.toNat ∨ p.programOrigin.toNat + len ≤ a

/-- The table of 10_state R34, with the parameters `p`, a configuration `c` and a program of `bytes`. A
program that reaches into the font stands over it, since the load copies it last
(70_reset_and_hazards R262). -/
structure AsReset (p : Parameters) (c : Configuration) (bytes : List Byte) (t : State) : Prop where
  V       : ∀ r : Reg, t.V[r] = 0
  pc      : t.pc = p.programOrigin
  I       : t.I = 0
  stack   : ∀ j : Fin 16, t.stack[j] = 0
  sp      : t.sp = 0
  timers  : t.DT = 0 ∧ t.ST = 0
  font    : ∀ k, k < p.font.length → p.fontBase.toNat + k < p.memSize →
    OutsideProgram p bytes.length (p.fontBase.toNat + k) →
    byteAt t (p.fontBase.toNat + k) = p.font.getD k 0
  program : ∀ k, k < bytes.length → byteAt t (p.programOrigin.toNat + k) = bytes.getD k 0
  rest    : ∀ a, a < p.memSize → (a < p.fontBase.toNat ∨ p.fontBase.toNat + p.font.length ≤ a) →
    OutsideProgram p bytes.length a → byteAt t a = 0
  fault   : t.fault = none
  draw    : t.draw = false
  config  : t.params = p ∧ t.config = c

/-- `s` with another answer to whether an observer is attached (60_exceptions R245). -/
def withObserver (b : Bool) (s : State) : State := { s with config := { s.config with observer := b } }

end Sys2Proof.Claims

open Sys2Proof.Claims

/-! Control flow (41_control_flow). -/

/-- 41_control_flow R131: SYS changes nothing; `pc` keeps the advanced value. -/
def Obligations.SysDoesNothing : Prop :=
  ∀ (nnn : Addr) (s : State), exec (.sys nnn) s = .next s

/-- 41_control_flow R132: RET takes `pc` from the entry `sp` points at and then decrements `sp`, and
raises STACK_UNDERFLOW instead at `sp = 0` under `strict`. -/
def Obligations.RetPopsReturnAddress : Prop :=
  (∀ s : State, (s.sp = 0 → s.config.stackCheck = .wrap) →
    ∃ t, exec .ret s = .next t ∧
      t.pc = s.stack[s.sp.toFin] &&& s.params.addrMask ∧ t.sp.toNat = (s.sp.toNat + 15) % 16 ∧
      t = { s with pc := t.pc, sp := t.sp }) ∧
  (∀ s : State, s.sp = 0 → s.config.stackCheck = .strict →
    ∃ t, exec .ret s = .next t ∧ t.fault = some ⟨.stackUnderflow, s.insnAddr, s.insnWord⟩)

/-- 41_control_flow R133: RET at `sp = 0` faults under `strict`, the tick committing only the fault
latch, and reads `stack[0]` and leaves `sp = 15` under `wrap`. The spec's own choice D7 fixes the two
policies and `strict` as the default. -/
def Obligations.RetUnderflow : Prop :=
  State.reset.config.stackCheck = .strict ∧
  (∀ s : State, s.sp = 0 → s.config.stackCheck = .strict → Running s → Decodes s .ret →
    ∃ t, step s = .next t ∧ t.fault = some ⟨.stackUnderflow, s.pc, tickWord s⟩ ∧
      t.out.fault = t.fault ∧ SameCore { s with fault := t.fault } t) ∧
  (∀ s : State, s.sp = 0 → s.config.stackCheck = .wrap →
    ∃ t, exec .ret s = .next t ∧ t.pc = s.stack[(0 : Fin 16)] &&& s.params.addrMask ∧ t.sp = 15 ∧
      t = { s with pc := t.pc, sp := t.sp })

/-- 41_control_flow R135: CALL increments `sp`, stores the advanced `pc` in the new entry and jumps, and
raises STACK_OVERFLOW instead at `sp = 15` under `strict`. -/
def Obligations.CallPushesReturnAddress : Prop :=
  (∀ (nnn : Addr) (s : State), (s.sp = 15 → s.config.stackCheck = .wrap) →
    ∃ t, exec (.call nnn) s = .next t ∧
      t.sp.toNat = (s.sp.toNat + 1) % 16 ∧ t.stack[t.sp.toFin] = s.pc ∧
      (∀ j : Fin 16, j ≠ t.sp.toFin → t.stack[j] = s.stack[j]) ∧ JumpsTo s t nnn ∧
      t = { s with pc := t.pc, sp := t.sp, stack := t.stack }) ∧
  (∀ (nnn : Addr) (s : State), s.sp = 15 → s.config.stackCheck = .strict →
    ∃ t, exec (.call nnn) s = .next t ∧ t.fault = some ⟨.stackOverflow, s.insnAddr, s.insnWord⟩)

/-- 41_control_flow R136, its two policies (the clause on 15 nested calls is the spec's own inference and
is not stated): CALL at `sp = 15` faults under `strict`, the tick committing only the fault latch, and
writes `stack[0]` with `sp = 0` under `wrap`. -/
def Obligations.CallOverflow : Prop :=
  (∀ (nnn : Addr) (s : State), s.sp = 15 → s.config.stackCheck = .strict → Running s →
    Decodes s (.call nnn) →
    ∃ t, step s = .next t ∧ t.fault = some ⟨.stackOverflow, s.pc, tickWord s⟩ ∧
      t.out.fault = t.fault ∧ SameCore { s with fault := t.fault } t) ∧
  (∀ (nnn : Addr) (s : State), s.sp = 15 → s.config.stackCheck = .wrap →
    ∃ t, exec (.call nnn) s = .next t ∧ t.sp = 0 ∧ t.stack[(0 : Fin 16)] = s.pc ∧
      (∀ j : Fin 16, j ≠ 0 → t.stack[j] = s.stack[j]) ∧ JumpsTo s t nnn ∧
      t = { s with pc := t.pc, sp := t.sp, stack := t.stack })

/-- RET undoes CALL (41_control_flow R135: "the inverse of RET's read-then-decrement"): a RET after a
CALL that did not fault comes back to the pushed address with the old `sp`, from any state the callee
leaves the stack in as the CALL left it. The premises on the parameters and on `pc` are the invariant of
10_state R22, stated as `StepKeepsInvariant`, and no step changes the parameters
(`ConfigurationIsImmutable`). -/
def Obligations.RetUndoesCall : Prop :=
  ∀ (nnn : Addr) (s t u : State), (s.sp = 15 → s.config.stackCheck = .wrap) → s.params.Wf →
    s.pc.toNat < s.params.memSize → exec (.call nnn) s = .next t →
    u.sp = t.sp → u.stack = t.stack → u.params = t.params → u.config = t.config →
    ∃ v, exec .ret u = .next v ∧ v.pc = s.pc ∧ v.sp = s.sp ∧ v.stack = u.stack

/-- 41_control_flow R134 and R141: JP and JP_V0. -/
def Obligations.JumpTargets : Prop :=
  (∀ (nnn : Addr) (s : State), ∃ t, exec (.jp nnn) s = .next t ∧
    JumpsTo s t nnn ∧ t = { s with pc := t.pc }) ∧
  (∀ (nnn : Addr) (s : State), ∃ t, exec (.jpV0 nnn) s = .next t ∧
    t.pc = (nnn.setWidth 16 + s.V[(0 : Reg)].setWidth 16) &&& s.params.addrMask ∧
    (s.params.addrMask = 0x0FFF → t.pc.toNat = (nnn.toNat + s.V[(0 : Reg)].toNat) % 0x1000) ∧
    t = { s with pc := t.pc })

/-- 41_control_flow R130, R137 to R140: the four compare-and-skip instructions. -/
def Obligations.CompareSkips : Prop :=
  (∀ (x : Reg) (nn : Byte) (s : State), ∃ t, exec (.seImm x nn) s = .next t ∧
    SkipsIff s t (s.V[x] = nn)) ∧
  (∀ (x : Reg) (nn : Byte) (s : State), ∃ t, exec (.sneImm x nn) s = .next t ∧
    SkipsIff s t (s.V[x] ≠ nn)) ∧
  (∀ (x y : Reg) (s : State), ∃ t, exec (.seReg x y) s = .next t ∧ SkipsIff s t (s.V[x] = s.V[y])) ∧
  (∀ (x y : Reg) (s : State), ∃ t, exec (.sneReg x y) s = .next t ∧ SkipsIff s t (s.V[x] ≠ s.V[y]))

/-! Registers and arithmetic (42_alu). -/

/-- 42_alu R150 to R152: LD_IMM, ADD_IMM, which wraps modulo 256 and writes no flag, and LD_REG. -/
def Obligations.LoadsAndAddImmediate : Prop :=
  (∀ (x : Reg) (nn : Byte) (s : State), ∃ t, exec (.ldImm x nn) s = .next t ∧ WritesReg s t x nn) ∧
  (∀ (x : Reg) (nn : Byte) (s : State), ∃ t, exec (.addImm x nn) s = .next t ∧
    t.V[x].toNat = (s.V[x].toNat + nn.toNat) % 256 ∧ WritesReg s t x t.V[x]) ∧
  (∀ (x y : Reg) (s : State), ∃ t, exec (.ldReg x y) s = .next t ∧ WritesReg s t x s.V[y])

/-- 42_alu R153 to R155: OR, AND and XOR, bit by bit, with no flag. -/
def Obligations.BitwiseOperations : Prop :=
  (∀ (x y : Reg) (s : State), ∃ t, exec (.or x y) s = .next t ∧ WritesReg s t x t.V[x] ∧
    ∀ k, t.V[x].getLsbD k = (s.V[x].getLsbD k || s.V[y].getLsbD k)) ∧
  (∀ (x y : Reg) (s : State), ∃ t, exec (.and x y) s = .next t ∧ WritesReg s t x t.V[x] ∧
    ∀ k, t.V[x].getLsbD k = (s.V[x].getLsbD k && s.V[y].getLsbD k)) ∧
  (∀ (x y : Reg) (s : State), ∃ t, exec (.xor x y) s = .next t ∧ WritesReg s t x t.V[x] ∧
    ∀ k, t.V[x].getLsbD k = (s.V[x].getLsbD k ^^ s.V[y].getLsbD k))

/-- 42_alu R156: ADD_REG, VF the carry, the flag last where X is VF. -/
def Obligations.AddRegistersWithCarry : Prop :=
  ∀ (x y : Reg) (s : State), ∃ t, exec (.addReg x y) s = .next t ∧
    WritesRegAndFlag s t x ((s.V[x].toNat + s.V[y].toNat) % 256) (255 < s.V[x].toNat + s.V[y].toNat)

/-- 42_alu R157 and R160: SUB is X - Y, SUBN is Y - X, VF the not-borrow. -/
def Obligations.SubtractWithNotBorrow : Prop :=
  (∀ (x y : Reg) (s : State), ∃ t, exec (.sub x y) s = .next t ∧
    WritesRegAndFlag s t x ((s.V[x].toNat + 256 - s.V[y].toNat) % 256) (s.V[y].toNat ≤ s.V[x].toNat)) ∧
  (∀ (x y : Reg) (s : State), ∃ t, exec (.subn x y) s = .next t ∧
    WritesRegAndFlag s t x ((s.V[y].toNat + 256 - s.V[x].toNat) % 256) (s.V[x].toNat ≤ s.V[y].toNat))

/-- 42_alu R158, R159 and R161: SHR and SHL, the source by the shift quirk, VF the bit shifted out, the
result always in the X register. -/
def Obligations.ShiftsWithBitShiftedOut : Prop :=
  (∀ (x y : Reg) (s : State) (src : Byte), shiftSourceIs s x y src →
    ∃ t, exec (.shr x y) s = .next t ∧
      WritesRegAndFlag s t x (src.toNat / 2) (src.toNat % 2 = 1)) ∧
  (∀ (x y : Reg) (s : State) (src : Byte), shiftSourceIs s x y src →
    ∃ t, exec (.shl x y) s = .next t ∧
      WritesRegAndFlag s t x (src.toNat * 2 % 256) (128 ≤ src.toNat))

/-- 42_alu R162: RND writes the tick's free byte RAND and the mask, for every value of RAND; a mask of 0
gives 0. -/
def Obligations.RandomByteMasked : Prop :=
  ∀ (x : Reg) (nn : Byte) (s : State), ∃ t, exec (.rnd x nn) s = .next t ∧ WritesReg s t x t.V[x] ∧
    (∀ k, t.V[x].getLsbD k = (s.input.rand.getLsbD k && nn.getLsbD k)) ∧ (nn = 0 → t.V[x] = 0)

/-! Index register and memory (43_index_memory, 20_memory). -/

/-- 43_index_memory R180 to R182: LD_I, ADD_I_VX and LD_F_VX write only `I`. -/
def Obligations.IndexWrites : Prop :=
  (∀ (nnn : Addr) (s : State), ∃ t, exec (.ldI nnn) s = .next t ∧
    t.I.toNat = nnn.toNat ∧ t = { s with I := t.I }) ∧
  (∀ (x : Reg) (s : State), ∃ t, exec (.addIVx x) s = .next t ∧
    t.I.toNat = (s.I.toNat + s.V[x].toNat) % 0x10000 ∧ t = { s with I := t.I }) ∧
  (∀ (x : Reg) (s : State), ∃ t, exec (.ldFVx x) s = .next t ∧
    t.I.toNat = (s.params.fontBase.toNat + s.params.glyphBytes * s.V[x].toNat) % 0x10000 ∧
    (s.params = Parameters.hardware → t.I.toNat = 5 * s.V[x].toNat) ∧ t = { s with I := t.I })

/-- 20_memory R51 and R56: memory is one array of bytes under the decoder `a & ADDR_MASK`. A read gives the
byte there, a write changes that byte and nothing else, and the `k`-th byte an instruction touches stands
at `(I + k) & ADDR_MASK` (43_index_memory R186), which is reduction modulo MEM_SIZE, 0x1000 on this
hardware. -/
def Obligations.MemoryAccess : Prop :=
  (∀ (s : State) (a : Word), memRead s a = byteAt s (a &&& s.params.addrMask).toNat) ∧
  (∀ (s : State) (a : Word) (v : Byte) (b : Nat),
    byteAt (memWrite a v s) b = (if b = (a &&& s.params.addrMask).toNat then v else byteAt s b) ∧
    memWrite a v s = { s with mem := (memWrite a v s).mem }) ∧
  (∀ (s : State) (k : Nat), s.params.Wf →
    decodeAddr s.params (effAddr s k) = (s.I.toNat + k) % s.params.memSize) ∧
  (∀ (s : State) (k : Nat), s.params = Parameters.hardware →
    decodeAddr s.params (effAddr s k) = (s.I.toNat + k) % 0x1000)

/-- 43_index_memory R183: LD_B_VX stores the three decimal digits and changes no other byte; `I` and
everything else stay. The premise, here and below, is that the parameters fit together, part of the invariant
stated as `StepKeepsInvariant`. -/
def Obligations.BcdStore : Prop :=
  ∀ (x : Reg) (s : State), s.params.Wf → ∃ t, exec (.ldBVx x) s = .next t ∧
    (byteAt t (decodeAddr s.params (effAddr s 0))).toNat = s.V[x].toNat / 100 ∧
    (byteAt t (decodeAddr s.params (effAddr s 1))).toNat = s.V[x].toNat / 10 % 10 ∧
    (byteAt t (decodeAddr s.params (effAddr s 2))).toNat = s.V[x].toNat % 10 ∧
    (∀ a : Nat, (∀ k, k < 3 → a ≠ decodeAddr s.params (effAddr s k)) → byteAt t a = byteAt s a) ∧
    t = { s with mem := t.mem }

/-- 43_index_memory R184: LD_MEM_VX stores V0..VX at `I`.., changes no other byte, and advances `I` by
X + 1. -/
def Obligations.BlockStore : Prop :=
  ∀ (x : Reg) (s : State), s.params.Wf → ∃ t, exec (.ldMemVx x) s = .next t ∧
    (∀ k : Reg, k ≤ x → byteAt t (decodeAddr s.params (effAddr s k)) = s.V[k]) ∧
    (∀ a : Nat, (∀ k : Nat, k ≤ x.val → a ≠ decodeAddr s.params (effAddr s k)) →
      byteAt t a = byteAt s a) ∧
    t.I.toNat = (s.I.toNat + x.val + 1) % 0x10000 ∧ t = { s with mem := t.mem, I := t.I }

/-- 43_index_memory R185: LD_VX_MEM loads V0..VX from `I`.., leaves the registers above and all of
memory, and advances `I` by X + 1. -/
def Obligations.BlockLoad : Prop :=
  ∀ (x : Reg) (s : State), ∃ t, exec (.ldVxMem x) s = .next t ∧
    (∀ k : Reg, k ≤ x → t.V[k] = byteAt s (decodeAddr s.params (effAddr s k))) ∧
    (∀ k : Reg, x < k → t.V[k] = s.V[k]) ∧
    t.I.toNat = (s.I.toNat + x.val + 1) % 0x10000 ∧ t = { s with V := t.V, I := t.I }

/-- LD_VX_MEM reads back what LD_MEM_VX stored (43_index_memory R185: "block-load the inverse"): from the
same `I`, whatever the registers hold in between, V0..VX are the stored ones again. The memory list reads
under the parameters, which no step changes (`ConfigurationIsImmutable`). -/
def Obligations.BlockLoadInvertsBlockStore : Prop :=
  ∀ (x : Reg) (s t u : State), s.params.Wf → exec (.ldMemVx x) s = .next t →
    u.params = t.params → u.mem = t.mem → u.I = s.I →
    ∃ v, exec (.ldVxMem x) u = .next v ∧ v.I = t.I ∧ ∀ k : Reg, k ≤ x → v.V[k] = s.V[k]

/-- 20_memory R52 and R53, 40_execution_cycle R103: with no override the tick's word is the bytes at `pc`
and `pc + 1`, the first one high, from an odd `pc` too, and from 0xFFF the low byte is at 0x000; an
override is the word, whatever memory holds. -/
def Obligations.FetchOrOverride : Prop :=
  (∀ s : State, (fetchWord s).toNat =
    256 * (byteAt s (s.pc &&& s.params.addrMask).toNat).toNat +
      (byteAt s ((s.pc + 1) &&& s.params.addrMask).toNat).toNat) ∧
  (∀ s : State, (nextInput s).overrideWord = none → tickWord s = fetchWord s) ∧
  (∀ (s : State) (op : Word) (m : Memory), (nextInput s).overrideWord = some op →
    tickWord { s with mem := m } = op)

/-- 20_memory R62: the next fetch sees a store, made at the address of either byte of the word. -/
def Obligations.StoreSeenByFetch : Prop :=
  ∀ (s : State) (a : Word) (v : Byte), s.params.Wf →
    (a.toNat % s.params.memSize = s.pc.toNat % s.params.memSize →
      fetchWord (memWrite a v s) = v ++ memRead s (s.pc + 1)) ∧
    (a.toNat % s.params.memSize = (s.pc.toNat + 1) % s.params.memSize →
      fetchWord (memWrite a v s) = memRead s s.pc ++ v) ∧
    (a.toNat % s.params.memSize ≠ s.pc.toNat % s.params.memSize →
      a.toNat % s.params.memSize ≠ (s.pc.toNat + 1) % s.params.memSize →
      fetchWord (memWrite a v s) = fetchWord s)

/-- 10_state R24: the bits of `I` above ADDR_MASK, the top four on this hardware, never select memory: two
states that differ only there give the same registers, memory, display, requests and draw effect. -/
def Obligations.IndexTopBitsSelectNothing : Prop :=
  ∀ (i : Instr) (s : State) (j : Word), s.params.Wf → j &&& s.params.addrMask = s.I &&& s.params.addrMask →
    ∃ t u, exec i s = .next t ∧ exec i { s with I := j } = .next u ∧
      u.V = t.V ∧ u.mem = t.mem ∧ u.display = t.display ∧ u.out = t.out ∧ u.pc = t.pc

/-- 20_memory R55: no instruction but LD_B_VX and LD_MEM_VX changes memory, and no instruction but CALL
changes a stack entry (10_state R25). -/
def Obligations.OnlyStoresWriteMemory : Prop :=
  ∀ (i : Instr) (s t : State), exec i s = .next t →
    ((∀ x, i ≠ .ldBVx x) → (∀ x, i ≠ .ldMemVx x) → t.mem = s.mem) ∧
    ((∀ nnn, i ≠ .call nnn) → t.stack = s.stack)

/-! Display, input, timers (44_display_input_timers). -/

/-- 44_display_input_timers R200: CLS requests a clear, which leaves no pixel on, and sets the draw
effect. That the plane of 60_exceptions R247 stands for the display is the model's choice (log entry
10). -/
def Obligations.ClearScreen : Prop :=
  ∀ s : State, ∃ t, exec .cls s = .next t ∧
    (∀ px py : Nat, t.display.pixel px py = false) ∧
    t.out = { s.out with display := s.out.display ++ [.clear] } ∧
    t = { s with display := t.display, draw := true, out := t.out }

/-- 44_display_input_timers R201 with the plane of 60_exceptions R247: the toggle requests come one for each
1 bit, in row order and within a row from left to right, the draw effect is set, and nothing else changes
but the plane and VF. On a display no smaller than the sprite, as this hardware's is, DRW inverts exactly
the pixels its 1 bits cover, and VF is 1 iff one of them was on. That the plane answers the toggles is the
model's choice (log entry 10). -/
def Obligations.DrawXorsSprite : Prop :=
  ∀ (x y : Reg) (n : Nibble) (s : State), ∃ t, exec (.drw x y n) s = .next t ∧
    (8 ≤ s.params.displayWidth → n.toNat ≤ s.params.displayHeight →
      (∀ px py : Nat,
        (Covers s x y n px py → t.display.pixel px py = !s.display.pixel px py) ∧
        (¬Covers s x y n px py → t.display.pixel px py = s.display.pixel px py)) ∧
      ((∃ px py, Covers s x y n px py ∧ s.display.pixel px py = true) → t.V[s.params.flagReg] = 1) ∧
      ((∀ px py, Covers s x y n px py → s.display.pixel px py = false) → t.V[s.params.flagReg] = 0)) ∧
    (t.V[s.params.flagReg] = 0 ∨ t.V[s.params.flagReg] = 1) ∧
    (∀ r : Reg, r ≠ s.params.flagReg → t.V[r] = s.V[r]) ∧
    t.out = { s.out with display := s.out.display ++ drawRequests s x y n } ∧
    t = { s with V := t.V, display := t.display, draw := true, out := t.out }

/-- 44_display_input_timers R202 and R203: SKP skips iff a key is pressed and equals Vx, SKNP iff not,
for every KEY sample; a Vx above the key codes never equals one. The premise of the last clause is the
invariant of 40_execution_cycle R115, stated as `StepKeepsInvariant`. -/
def Obligations.KeySkips : Prop :=
  (∀ (x : Reg) (s : State), ∃ t, exec (.skp x) s = .next t ∧ SkipsIff s t (s.input.key = some s.V[x])) ∧
  (∀ (x : Reg) (s : State), ∃ t, exec (.sknp x) s = .next t ∧ SkipsIff s t (s.input.key ≠ some s.V[x])) ∧
  (∀ (x : Reg) (s : State), (∀ k, s.input.key = some k → k.toNat < 2 ^ s.params.keyWidth) →
    2 ^ s.params.keyWidth ≤ s.V[x].toNat → exec (.skp x) s = .next s)

/-- 44_display_input_timers R205. With no key `pc` steps back by 2 and nothing else changes, so that a tick
leaves `pc` at the instruction's own address and every register as it was, and, by the spec's own inference
(70_reset_and_hazards R270, 40_execution_cycle R108), still counts the timers; with a key its code goes to
Vx and the tick leaves `pc` at the next word. The premises on the parameters and `pc` are the invariant of 10_state R22, stated as `StepKeepsInvariant`. -/
def Obligations.WaitForKey : Prop :=
  (∀ (x : Reg) (s : State), s.input.key = none → ∃ t, exec (.ldVxK x) s = .next t ∧
    t.pc = (s.pc - 2) &&& s.params.addrMask ∧ t = { s with pc := t.pc }) ∧
  (∀ (x : Reg) (s : State) (k : Byte), s.input.key = some k →
    ∃ t, exec (.ldVxK x) s = .next t ∧ WritesReg s t x k) ∧
  (∀ (s : State) (x : Reg), Running s → s.params.Wf → s.pc.toNat < s.params.memSize →
    Decodes s (.ldVxK x) → (nextInput s).key = none →
    ∃ t, step s = .next t ∧ t.pc = s.pc ∧ t.DT.toNat = s.DT.toNat - 1 ∧ t.ST.toNat = s.ST.toNat - 1 ∧
      (t.out.beep = true ↔ s.ST = 1) ∧ SameCore { s with DT := t.DT, ST := t.ST } t) ∧
  (∀ (s : State) (x : Reg) (k : Byte), Running s → Decodes s (.ldVxK x) → (nextInput s).key = some k →
    ∃ t, step s = .next t ∧ t.pc = (s.pc + 2) &&& s.params.addrMask ∧ t.V[x] = k)

/-- 44_display_input_timers R204, R206 and R207: the timer moves, and what the tick's own decrement leaves
of them, the spec's own inference from 40_execution_cycle R108. Of R207 the sentence on later ticks is not
stated. -/
def Obligations.TimerMoves : Prop :=
  (∀ (x : Reg) (s : State), ∃ t, exec (.ldVxDt x) s = .next t ∧ WritesReg s t x s.DT) ∧
  (∀ (x : Reg) (s : State), exec (.ldDtVx x) s = .next { s with DT := s.V[x] }) ∧
  (∀ (x : Reg) (s : State), exec (.ldStVx x) s = .next { s with ST := s.V[x] }) ∧
  (∀ (x : Reg) (s : State), Running s → Decodes s (.ldVxDt x) →
    ∃ t, step s = .next t ∧ t.V[x] = s.DT ∧ t.DT.toNat = s.DT.toNat - 1) ∧
  (∀ (x : Reg) (s : State), Running s → Decodes s (.ldDtVx x) →
    ∃ t, step s = .next t ∧ t.DT.toNat = s.V[x].toNat - 1) ∧
  (∀ (x : Reg) (s : State), Running s → Decodes s (.ldStVx x) →
    ∃ t, step s = .next t ∧ t.ST.toNat = s.V[x].toNat - 1 ∧ (t.out.beep = true ↔ s.V[x] = 1))

/-! The tick (40_execution_cycle). -/

/-- 40_execution_cycle R102: a step of a ticking core whose word decodes to `i` samples and fetches,
emits the observer event, advances `pc`, runs `exec i`, and then counts the timers and notifies the
frame. -/
def Obligations.StepRunsDecodedInstruction : Prop :=
  ∀ (s : State) (i : Instr), Running s → Decodes s i →
    step s = match exec i (advance (observe i (beginTick s))) with
      | .next t => .next (endTick t)
      | .fault r => .fault r
      | .refused r => .refused r

/-- 40_execution_cycle R104 and 60_exceptions R233: a word that matches no entry ends the tick with the
DECODE fault: only the latch changes, and of the outputs only the fault is emitted. -/
def Obligations.DecodeFaultCommitsNothing : Prop :=
  ∀ (s : State) (e : DecodeError), Running s → disassemble (tickWord s) = .error e →
    ∃ t, step s = .next t ∧ t.fault = some ⟨.decode, s.pc, tickWord s⟩ ∧
      t.out = { Outputs.none with fault := t.fault } ∧ SameCore { s with fault := t.fault } t

/-- 40_execution_cycle R111 and R113: while the host holds the halted flag, or once the fault latch is
set, no tick is performed: nothing changes and nothing is emitted. The host's flag is all that setting or
clearing it changes, and a reset or a load clears the latch. -/
def Obligations.NoTickWhileStopped : Prop :=
  (∀ s : State, (s.halted = true ∨ ∃ r, s.fault = some r) →
    step s = .next { s with out := Outputs.none }) ∧
  (∀ (b : Bool) (s : State), setHalted b s = { s with halted := b }) ∧
  (∀ s : State, (resetCore s).fault = none) ∧
  (∀ (bytes : List Byte) (s t : State), load bytes s = .ok t → t.fault = none)

/-- 40_execution_cycle R108: a completed tick counts both timers down from what step 5 left, never below
0, and beeps iff `ST` was exactly 1 before the decrement; only LD_DT_VX and LD_ST_VX write them in
step 5 (10_state R27), which step 6 then sees (44_display_input_timers R206, R207). -/
def Obligations.TimersCountDown : Prop :=
  ∀ (s t : State) (i : Instr), Running s → Decodes s i → step s = .next t → t.fault = none →
    (∀ x, i = .ldDtVx x → t.DT.toNat = s.V[x].toNat - 1) ∧
    ((∀ x, i ≠ .ldDtVx x) → t.DT.toNat = s.DT.toNat - 1) ∧
    (∀ x, i = .ldStVx x → t.ST.toNat = s.V[x].toNat - 1 ∧ (t.out.beep = true ↔ s.V[x] = 1)) ∧
    ((∀ x, i ≠ .ldStVx x) → t.ST.toNat = s.ST.toNat - 1 ∧ (t.out.beep = true ↔ s.ST = 1))

/-- 40_execution_cycle R109: a tick that decodes notifies the frame iff its instruction is CLS or DRW. That the
draw-effect latch, which does not survive the tick (10_state R30), is false after it is the model's reading
(DEDUCED, log entry 15). -/
def Obligations.FrameNotification : Prop :=
  ∀ (s t : State) (i : Instr), Running s → Decodes s i → step s = .next t →
    t.draw = false ∧ (t.out.frameComplete = true ↔ i = .cls ∨ ∃ x y n, i = .drw x y n)

/-- 10_state R23: an instruction that does not write `pc` leaves it two past its own address, masked, at the
end of its tick. -/
def Obligations.PcAdvancesByTwo : Prop :=
  ∀ (s t : State) (i : Instr), Running s → Decodes s i → step s = .next t →
    i ≠ .ret → (∀ n, i ≠ .jp n) → (∀ n, i ≠ .call n) → (∀ n, i ≠ .jpV0 n) →
    (∀ x n, i ≠ .seImm x n) → (∀ x n, i ≠ .sneImm x n) → (∀ x y, i ≠ .seReg x y) →
    (∀ x y, i ≠ .sneReg x y) → (∀ x, i ≠ .skp x) → (∀ x, i ≠ .sknp x) → (∀ x, i ≠ .ldVxK x) →
    t.pc = (s.pc + 2) &&& s.params.addrMask

/-- 60_exceptions R239 and R240, 40_execution_cycle R110: whatever the fault, a faulting tick changes the
fault latch alone, and the record holds the address and the word of the tick (R231). -/
def Obligations.FaultsArePrecise : Prop :=
  ∀ (s t : State) (r : FaultRecord), Running s → step s = .next t → t.fault = some r →
    r.pc = s.pc ∧ r.opcode = tickWord s ∧ t.out.fault = some r ∧
    t.out.display = [] ∧ t.out.beep = false ∧ t.out.frameComplete = false ∧
    SameCore { s with fault := some r } t

/-- 60_exceptions R232: a tick faults exactly where its word does not decode, or is a CALL at `sp = 15`
or a RET at `sp = 0` under `strict`, with the code of that row. -/
def Obligations.TickFaultsExactly : Prop :=
  ∀ (s t : State), Running s → step s = .next t →
    ((∃ r, t.fault = some r ∧ r.code = .decode) ↔ ∃ e, disassemble (tickWord s) = .error e) ∧
    ((∃ r, t.fault = some r ∧ r.code = .stackOverflow) ↔
      (∃ n, Decodes s (.call n)) ∧ s.sp = 15 ∧ s.config.stackCheck = .strict) ∧
    ((∃ r, t.fault = some r ∧ r.code = .stackUnderflow) ↔
      Decodes s .ret ∧ s.sp = 0 ∧ s.config.stackCheck = .strict)

/-- Every step of every state answers a next state: every instruction of the catalog runs, and every
fault the spec describes is taken (60_exceptions R240) as a next state (the model's choice, log entry 2). -/
def Obligations.EveryStepAnswersNext : Prop :=
  ∀ s : State, ∃ t, step s = .next t

/-- 10_state R29 and 70_reset_and_hazards R265: the configuration is the one the core was constructed with,
and neither a step, a reset nor a load changes it. That the same holds of the parameters of 00_scope R5, which
construction takes as arguments, is the model's choice (log entry 11). -/
def Obligations.ConfigurationIsImmutable : Prop :=
  (∀ (p : Parameters) (q : Bool) (hz : Int) (c : StackPolicy) (o : Bool) (d : Plane) (t : State),
    construct p q hz c o d = .ok t → t.params = p ∧ t.config = ⟨q, hz.toNat, c, o⟩) ∧
  (∀ s t : State, step s = .next t → t.params = s.params ∧ t.config = s.config) ∧
  (∀ s : State, (resetCore s).params = s.params ∧ (resetCore s).config = s.config) ∧
  (∀ (s t : State) (bytes : List Byte), load bytes s = .ok t →
    t.params = s.params ∧ t.config = s.config)

/-- 60_exceptions R245: the snapshot is of the state before the tick, a tick that decodes emits it where
an observer is attached, and whether one is attached changes nothing else of a step. -/
def Obligations.ObserverChangesNothing : Prop :=
  (∀ (s t : State) (b : Bool), step s = .next t →
    ∃ u, step (withObserver b s) = .next u ∧
      withObserver s.config.observer u = { t with out := { t.out with obs := u.out.obs } }) ∧
  (∀ (s t : State) (i : Instr), Running s → s.config.observer = true → Decodes s i → step s = .next t →
    t.out.obs = some ⟨s.pc, s.sp, s.I, s.V, s.DT, s.ST, tickWord s, i⟩) ∧
  (∀ (s t : State) (e : DecodeError), Running s → disassemble (tickWord s) = .error e → step s = .next t →
    t.out.obs = none)

/-- 10_state R21: VF is written only by an instruction whose destination register is VF, by a block load
that reaches it, and as a flag, where it is 0 or 1. -/
def Obligations.FlagRegisterWriters : Prop :=
  ∀ (i : Instr) (s t : State), exec i s = .next t →
    match i with
    | .addReg _ _ | .sub _ _ | .subn _ _ | .shr _ _ | .shl _ _ | .drw _ _ _ =>
      t.V[s.params.flagReg] = 0 ∨ t.V[s.params.flagReg] = 1
    | .ldImm x _ | .addImm x _ | .ldReg x _ | .or x _ | .and x _ | .xor x _ | .rnd x _ | .ldVxDt x
    | .ldVxK x => x ≠ s.params.flagReg → t.V[s.params.flagReg] = s.V[s.params.flagReg]
    | .ldVxMem x => x < s.params.flagReg → t.V[s.params.flagReg] = s.V[s.params.flagReg]
    | _ => t.V = s.V

/-- 10_state R27: "no instruction reads `ST`": another value of `ST` changes no other effect of any
instruction. -/
def Obligations.NoInstructionReadsSoundTimer : Prop :=
  ∀ (i : Instr) (s t : State) (v : Byte), exec i s = .next t →
    ∃ u, exec i { s with ST := v } = .next u ∧ u = { t with ST := u.ST }

/-- 40_execution_cycle R115 and R116: KEY is read only by SKP, SKNP and LD_VX_K, RAND only by RND. -/
def Obligations.SamplesReadOnlyByTheirInstructions : Prop :=
  ∀ (i : Instr) (s t : State) (key : Option Byte) (rand : Byte), exec i s = .next t →
    ((∀ x, i ≠ .skp x) → (∀ x, i ≠ .sknp x) → (∀ x, i ≠ .ldVxK x) →
      exec i { s with input := { s.input with key := key } } =
        .next { t with input := { t.input with key := key } }) ∧
    ((∀ x nn, i ≠ .rnd x nn) →
      exec i { s with input := { s.input with rand := rand } } =
        .next { t with input := { t.input with rand := rand } })

/-! Encoding (30_encoding). -/

/-- 30_encoding R75 to R79: the disassembler reads back every well-formed instruction from its word, with
every operand at every value. -/
def Obligations.DecodeAfterEncode : Prop :=
  ∀ i : Instr, WellFormed i = true → disassemble (encode i) = .ok i

/-- 30_encoding R75 to R79, the other direction: a word that decodes is the encoding of what it decodes
to, which is well-formed; so no two words decode to one instruction. -/
def Obligations.EncodeAfterDecode : Prop :=
  ∀ (w : Word) (i : Instr), disassemble w = .ok i → encode i = w ∧ WellFormed i = true

/-- 30_encoding R81: the words that are no instruction are exactly five classes, by their nibbles. -/
def Obligations.UndecodableWords : Prop :=
  ∀ w : Word, (∃ e, disassemble w = .error e) ↔
    (w.toNat / 0x1000 = 5 ∧ w.toNat % 16 ≠ 0) ∨
    (w.toNat / 0x1000 = 8 ∧ w.toNat % 16 ∈ [8, 9, 10, 11, 12, 13, 15]) ∨
    (w.toNat / 0x1000 = 9 ∧ w.toNat % 16 ≠ 0) ∨
    (w.toNat / 0x1000 = 14 ∧ w.toNat % 256 ∉ [0x9E, 0xA1]) ∨
    (w.toNat / 0x1000 = 15 ∧ w.toNat % 256 ∉ [0x07, 0x0A, 0x15, 0x18, 0x1E, 0x29, 0x33, 0x55, 0x65])

/-- 30_encoding R77: only 0x00E0 and 0x00EE match more than one entry, and there CLS and RET win. -/
def Obligations.OnlyTwoWordsMatchTwice : Prop :=
  (∀ w : Word, 1 < (candidates catalog w).length ↔ w = 0x00E0 ∨ w = 0x00EE) ∧
  disassemble 0x00E0 = .ok .cls ∧ disassemble 0x00EE = .ok .ret

/-- 30_encoding R83: the order of the catalog does not change the answer, for any catalog and any
word. -/
def Obligations.CatalogOrderIrrelevant : Prop :=
  ∀ (c d : List Entry) (w : Word), c.Perm d → disassembleWith c w = disassembleWith d w

/-- Words written out from the templates of 30_encoding R75 decode to what they stand for, and words of
R81 to nothing (95_test_vectors V-DEC). -/
def Obligations.WordsDecodeAsListed : Prop :=
  disassemble 0x0ABC = .ok (.sys 0xABC) ∧ disassemble 0x2FFF = .ok (.call 0xFFF) ∧
  disassemble 0x3A55 = .ok (.seImm 0xA 0x55) ∧ disassemble 0x8126 = .ok (.shr 1 2) ∧
  disassemble 0xDABF = .ok (.drw 0xA 0xB 0xF) ∧ disassemble 0xE09E = .ok (.skp 0) ∧
  disassemble 0xFF65 = .ok (.ldVxMem 0xF) ∧ disassemble 0x5121 = .error (.noMatch 0x5121)

/-! Reset, load, invariants (10_state, 70_reset_and_hazards, 60_exceptions). -/

/-- 10_state R40: the font table, 16 glyphs of 5 bytes at 0x000, as reset leaves them. -/
def Obligations.FontTable : Prop :=
  (List.range 80).map (fun a => (byteAt State.reset a).toNat) =
    [0xF0, 0x90, 0x90, 0x90, 0xF0] ++ [0x20, 0x60, 0x20, 0x20, 0x70] ++
    [0xF0, 0x10, 0xF0, 0x80, 0xF0] ++ [0xF0, 0x10, 0xF0, 0x10, 0xF0] ++
    [0x90, 0x90, 0xF0, 0x10, 0x10] ++ [0xF0, 0x80, 0xF0, 0x10, 0xF0] ++
    [0xF0, 0x80, 0xF0, 0x90, 0xF0] ++ [0xF0, 0x10, 0x20, 0x40, 0x40] ++
    [0xF0, 0x90, 0xF0, 0x90, 0xF0] ++ [0xF0, 0x90, 0xF0, 0x10, 0xF0] ++
    [0xF0, 0x90, 0xF0, 0x90, 0x90] ++ [0xE0, 0x90, 0xE0, 0x90, 0xE0] ++
    [0xF0, 0x80, 0x80, 0x80, 0xF0] ++ [0xE0, 0x90, 0x90, 0x90, 0xE0] ++
    [0xF0, 0x80, 0xF0, 0x80, 0xF0] ++ [0xF0, 0x80, 0xF0, 0x80, 0x80]

/-- 10_state R34: what reset leaves, by construction (no program) and by a load, where the parameters fit
together. The values not in the source are the spec's decisions D3 to D5 and D19, which R34 states. -/
def Obligations.ResetValues : Prop :=
  AsReset Parameters.hardware Configuration.default [] State.reset ∧ State.reset.pc = 0x200 ∧
  (∀ (p : Parameters) (q : Bool) (hz : Int) (c : StackPolicy) (o : Bool) (d : Plane) (t : State),
    construct p q hz c o d = .ok t → AsReset p ⟨q, hz.toNat, c, o⟩ [] t) ∧
  (∀ (bytes : List Byte) (s t : State), s.params.Wf → load bytes s = .ok t → AsReset s.params s.config bytes t)

/-- The table of 00_scope R5: the widths and counts this hardware's State takes, and the values of the other
parameters as the state after reset holds them (log entry 11). -/
def Obligations.ParametersOfThisHardware : Prop :=
  Config.nregs = 16 ∧ Config.regWidth = 8 ∧ Config.pcWidth = 16 ∧ Config.iWidth = 16 ∧
  Config.stackDepth = 16 ∧ Config.spWidth = 4 ∧ Config.timerWidth = 8 ∧
  State.reset.params.memSize = 4096 ∧ State.reset.params.addrMask = 0x0FFF ∧
  State.reset.params.flagReg = 15 ∧ State.reset.params.programOrigin = 0x200 ∧
  State.reset.params.maxProgram = 3584 ∧ State.reset.params.fontBase = 0x000 ∧
  State.reset.params.glyphBytes = 5 ∧ State.reset.params.font.length = 80 ∧
  State.reset.params.displayWidth = 64 ∧ State.reset.params.displayHeight = 32 ∧
  State.reset.params.keyWidth = 4 ∧ State.reset.config.shiftQuirk = false ∧
  State.reset.config.clockHz = 300 ∧ State.reset.config.stackCheck = .strict

/-- 60_exceptions R236 and R237, 70_reset_and_hazards R262: construction is refused exactly for a clock
frequency that is not positive, and a load exactly for a program that reaches past MEM_SIZE from the program
origin, one of more than MAX_PROGRAM = 3584 bytes on this hardware. -/
def Obligations.HostErrors : Prop :=
  (∀ (p : Parameters) (q : Bool) (hz : Int) (c : StackPolicy) (o : Bool) (d : Plane),
    ((construct p q hz c o d : Except HostError State) = .error .invalidConfig ↔ hz ≤ 0) ∧
    (0 < hz → ∃ t : State, construct p q hz c o d = .ok t)) ∧
  Parameters.hardware.maxProgram = 3584 ∧
  (∀ (bytes : List Byte) (s : State),
    (load bytes s = .error .programTooLarge ↔
      s.params.memSize < s.params.programOrigin.toNat + bytes.length) ∧
    (s.params.programOrigin.toNat + bytes.length ≤ s.params.memSize → ∃ t, load bytes s = .ok t)) ∧
  (∀ (bytes : List Byte) (s : State), s.params = Parameters.hardware →
    (load bytes s = .error .programTooLarge ↔ 3584 < bytes.length))

/-- 70_reset_and_hazards R261 and 60_exceptions R247: reset and load keep the display, the configuration
and the host's halted flag, and clear the fault latch. -/
def Obligations.ResetKeepsHostState : Prop :=
  (∀ s : State, (resetCore s).display = s.display ∧ (resetCore s).config = s.config ∧
    (resetCore s).halted = s.halted ∧ (resetCore s).fault = none) ∧
  (∀ (bytes : List Byte) (s t : State), load bytes s = .ok t →
    t.display = s.display ∧ t.config = s.config ∧ t.halted = s.halted ∧ t.fault = none)

/-- A placed word is the next tick's word (log entry 9: `withFetchWord` stands for a load), from every
state whose parameters fit together, and the core then ticks. -/
def Obligations.PlacedWordIsFetchedNext : Prop :=
  ∀ (s : State) (w : Nat), s.params.Wf → w < 0x10000 →
    Running (s.withFetchWord 16 w) ∧ (tickWord (s.withFetchWord 16 w)).toNat = w

/-- The state after reset meets the invariant (10_state R22, R34; log entries 6 and 15). -/
def Obligations.ResetMeetsInvariant : Prop := Inv State.reset

/-- 10_state R22 ("`pc < 0x1000` holds in every state"), with the canonical form of memory, stack entries
below 0x1000 (R25), the draw effect confined to its tick (40_execution_cycle R109; log entry 15) and every
latched fault explained by its state (60_exceptions R232, R239): every step keeps it. The canonical form is
the model's own representation (log entry 6), and so is the plane's (log entry 10). The parameters fit
together (log entry 11), the plane stays inside the resolution, and a key code has KEY_WIDTH bits
(40_execution_cycle R115). -/
def Obligations.StepKeepsInvariant : Prop :=
  ∀ s t : State, Inv s → step s = .next t → Inv t

/-- Every state that construction, steps, resets, loads and the host's flag and samples lead to meets the
invariant; that the host's samples are part of a history is the model's choice (log entry 3). -/
def Obligations.ReachableMeetsInvariant : Prop :=
  ∀ s : State, Reachable s → Inv s
end

