-- ==== Sys2Proof/Laws/Cycle.lean ====
section
/-! SUPPORT. What the post-advance of `I` and each step of a tick around the execution leave in each
field. -/

namespace Sys2Proof.Machine

/-! `advanceI`. -/

@[simp] theorem advanceI_V (x : Reg) (s : State) : (advanceI x s).V = s.V := rfl
@[simp] theorem advanceI_pc (x : Reg) (s : State) : (advanceI x s).pc = s.pc := rfl
@[simp] theorem advanceI_I (x : Reg) (s : State) : (advanceI x s).I = s.I + BitVec.ofNat _ (x.val + 1) := rfl
@[simp] theorem advanceI_stack (x : Reg) (s : State) : (advanceI x s).stack = s.stack := rfl
@[simp] theorem advanceI_sp (x : Reg) (s : State) : (advanceI x s).sp = s.sp := rfl
@[simp] theorem advanceI_DT (x : Reg) (s : State) : (advanceI x s).DT = s.DT := rfl
@[simp] theorem advanceI_ST (x : Reg) (s : State) : (advanceI x s).ST = s.ST := rfl
@[simp] theorem advanceI_mem (x : Reg) (s : State) : (advanceI x s).mem = s.mem := rfl
@[simp] theorem advanceI_fault (x : Reg) (s : State) : (advanceI x s).fault = s.fault := rfl
@[simp] theorem advanceI_draw (x : Reg) (s : State) : (advanceI x s).draw = s.draw := rfl
@[simp] theorem advanceI_params (x : Reg) (s : State) : (advanceI x s).params = s.params := rfl
@[simp] theorem advanceI_config (x : Reg) (s : State) : (advanceI x s).config = s.config := rfl
@[simp] theorem advanceI_halted (x : Reg) (s : State) : (advanceI x s).halted = s.halted := rfl
@[simp] theorem advanceI_display (x : Reg) (s : State) : (advanceI x s).display = s.display := rfl
@[simp] theorem advanceI_input (x : Reg) (s : State) : (advanceI x s).input = s.input := rfl
@[simp] theorem advanceI_pending (x : Reg) (s : State) : (advanceI x s).pending = s.pending := rfl
@[simp] theorem advanceI_sampleNo (x : Reg) (s : State) : (advanceI x s).sampleNo = s.sampleNo := rfl
@[simp] theorem advanceI_insnAddr (x : Reg) (s : State) : (advanceI x s).insnAddr = s.insnAddr := rfl
@[simp] theorem advanceI_insnWord (x : Reg) (s : State) : (advanceI x s).insnWord = s.insnWord := rfl
@[simp] theorem advanceI_out (x : Reg) (s : State) : (advanceI x s).out = s.out := rfl

/-! `beginTick`. -/

@[simp] theorem beginTick_V (s : State) : (beginTick s).V = s.V := rfl
@[simp] theorem beginTick_pc (s : State) : (beginTick s).pc = s.pc := rfl
@[simp] theorem beginTick_I (s : State) : (beginTick s).I = s.I := rfl
@[simp] theorem beginTick_stack (s : State) : (beginTick s).stack = s.stack := rfl
@[simp] theorem beginTick_sp (s : State) : (beginTick s).sp = s.sp := rfl
@[simp] theorem beginTick_DT (s : State) : (beginTick s).DT = s.DT := rfl
@[simp] theorem beginTick_ST (s : State) : (beginTick s).ST = s.ST := rfl
@[simp] theorem beginTick_mem (s : State) : (beginTick s).mem = s.mem := rfl
@[simp] theorem beginTick_fault (s : State) : (beginTick s).fault = s.fault := rfl
@[simp] theorem beginTick_draw (s : State) : (beginTick s).draw = s.draw := rfl
@[simp] theorem beginTick_params (s : State) : (beginTick s).params = s.params := rfl
@[simp] theorem beginTick_config (s : State) : (beginTick s).config = s.config := rfl
@[simp] theorem beginTick_halted (s : State) : (beginTick s).halted = s.halted := rfl
@[simp] theorem beginTick_display (s : State) : (beginTick s).display = s.display := rfl
@[simp] theorem beginTick_input (s : State) : (beginTick s).input = nextInput s := rfl
@[simp] theorem beginTick_pending (s : State) : (beginTick s).pending = s.pending.tail := rfl
@[simp] theorem beginTick_sampleNo (s : State) : (beginTick s).sampleNo = s.sampleNo + 1 := rfl
@[simp] theorem beginTick_insnAddr (s : State) : (beginTick s).insnAddr = s.pc := rfl
@[simp] theorem beginTick_insnWord (s : State) : (beginTick s).insnWord = tickWord s := rfl
@[simp] theorem beginTick_out (s : State) : (beginTick s).out = Outputs.none := rfl

/-! `observe`. -/

@[simp] theorem observe_V (i : Instr) (s : State) : (observe i s).V = s.V := rfl
@[simp] theorem observe_pc (i : Instr) (s : State) : (observe i s).pc = s.pc := rfl
@[simp] theorem observe_I (i : Instr) (s : State) : (observe i s).I = s.I := rfl
@[simp] theorem observe_stack (i : Instr) (s : State) : (observe i s).stack = s.stack := rfl
@[simp] theorem observe_sp (i : Instr) (s : State) : (observe i s).sp = s.sp := rfl
@[simp] theorem observe_DT (i : Instr) (s : State) : (observe i s).DT = s.DT := rfl
@[simp] theorem observe_ST (i : Instr) (s : State) : (observe i s).ST = s.ST := rfl
@[simp] theorem observe_mem (i : Instr) (s : State) : (observe i s).mem = s.mem := rfl
@[simp] theorem observe_fault (i : Instr) (s : State) : (observe i s).fault = s.fault := rfl
@[simp] theorem observe_draw (i : Instr) (s : State) : (observe i s).draw = s.draw := rfl
@[simp] theorem observe_params (i : Instr) (s : State) : (observe i s).params = s.params := rfl
@[simp] theorem observe_config (i : Instr) (s : State) : (observe i s).config = s.config := rfl
@[simp] theorem observe_halted (i : Instr) (s : State) : (observe i s).halted = s.halted := rfl
@[simp] theorem observe_display (i : Instr) (s : State) : (observe i s).display = s.display := rfl
@[simp] theorem observe_input (i : Instr) (s : State) : (observe i s).input = s.input := rfl
@[simp] theorem observe_pending (i : Instr) (s : State) : (observe i s).pending = s.pending := rfl
@[simp] theorem observe_sampleNo (i : Instr) (s : State) : (observe i s).sampleNo = s.sampleNo := rfl
@[simp] theorem observe_insnAddr (i : Instr) (s : State) : (observe i s).insnAddr = s.insnAddr := rfl
@[simp] theorem observe_insnWord (i : Instr) (s : State) : (observe i s).insnWord = s.insnWord := rfl
@[simp] theorem observe_out (i : Instr) (s : State) :
    (observe i s).out = { s.out with obs := if s.config.observer then some (snapshot i s) else none } := rfl

/-! `advance`. -/

@[simp] theorem advance_V (s : State) : (advance s).V = s.V := rfl
@[simp] theorem advance_pc (s : State) : (advance s).pc = (s.insnAddr + 2) &&& s.params.addrMask := rfl
@[simp] theorem advance_I (s : State) : (advance s).I = s.I := rfl
@[simp] theorem advance_stack (s : State) : (advance s).stack = s.stack := rfl
@[simp] theorem advance_sp (s : State) : (advance s).sp = s.sp := rfl
@[simp] theorem advance_DT (s : State) : (advance s).DT = s.DT := rfl
@[simp] theorem advance_ST (s : State) : (advance s).ST = s.ST := rfl
@[simp] theorem advance_mem (s : State) : (advance s).mem = s.mem := rfl
@[simp] theorem advance_fault (s : State) : (advance s).fault = s.fault := rfl
@[simp] theorem advance_draw (s : State) : (advance s).draw = false := rfl
@[simp] theorem advance_params (s : State) : (advance s).params = s.params := rfl
@[simp] theorem advance_config (s : State) : (advance s).config = s.config := rfl
@[simp] theorem advance_halted (s : State) : (advance s).halted = s.halted := rfl
@[simp] theorem advance_display (s : State) : (advance s).display = s.display := rfl
@[simp] theorem advance_input (s : State) : (advance s).input = s.input := rfl
@[simp] theorem advance_pending (s : State) : (advance s).pending = s.pending := rfl
@[simp] theorem advance_sampleNo (s : State) : (advance s).sampleNo = s.sampleNo := rfl
@[simp] theorem advance_insnAddr (s : State) : (advance s).insnAddr = s.insnAddr := rfl
@[simp] theorem advance_insnWord (s : State) : (advance s).insnWord = s.insnWord := rfl
@[simp] theorem advance_out (s : State) : (advance s).out = s.out := rfl

/-! `timers`. -/

@[simp] theorem timers_V (s : State) : (timers s).V = s.V := rfl
@[simp] theorem timers_pc (s : State) : (timers s).pc = s.pc := rfl
@[simp] theorem timers_I (s : State) : (timers s).I = s.I := rfl
@[simp] theorem timers_stack (s : State) : (timers s).stack = s.stack := rfl
@[simp] theorem timers_sp (s : State) : (timers s).sp = s.sp := rfl
@[simp] theorem timers_DT (s : State) : (timers s).DT = countDown s.DT := rfl
@[simp] theorem timers_ST (s : State) : (timers s).ST = countDown s.ST := rfl
@[simp] theorem timers_mem (s : State) : (timers s).mem = s.mem := rfl
@[simp] theorem timers_fault (s : State) : (timers s).fault = s.fault := rfl
@[simp] theorem timers_draw (s : State) : (timers s).draw = s.draw := rfl
@[simp] theorem timers_params (s : State) : (timers s).params = s.params := rfl
@[simp] theorem timers_config (s : State) : (timers s).config = s.config := rfl
@[simp] theorem timers_halted (s : State) : (timers s).halted = s.halted := rfl
@[simp] theorem timers_display (s : State) : (timers s).display = s.display := rfl
@[simp] theorem timers_input (s : State) : (timers s).input = s.input := rfl
@[simp] theorem timers_pending (s : State) : (timers s).pending = s.pending := rfl
@[simp] theorem timers_sampleNo (s : State) : (timers s).sampleNo = s.sampleNo := rfl
@[simp] theorem timers_insnAddr (s : State) : (timers s).insnAddr = s.insnAddr := rfl
@[simp] theorem timers_insnWord (s : State) : (timers s).insnWord = s.insnWord := rfl
@[simp] theorem timers_out (s : State) : (timers s).out = { s.out with beep := s.ST == 1 } := rfl

/-! `notifyFrame`. -/

@[simp] theorem notifyFrame_V (s : State) : (notifyFrame s).V = s.V := rfl
@[simp] theorem notifyFrame_pc (s : State) : (notifyFrame s).pc = s.pc := rfl
@[simp] theorem notifyFrame_I (s : State) : (notifyFrame s).I = s.I := rfl
@[simp] theorem notifyFrame_stack (s : State) : (notifyFrame s).stack = s.stack := rfl
@[simp] theorem notifyFrame_sp (s : State) : (notifyFrame s).sp = s.sp := rfl
@[simp] theorem notifyFrame_DT (s : State) : (notifyFrame s).DT = s.DT := rfl
@[simp] theorem notifyFrame_ST (s : State) : (notifyFrame s).ST = s.ST := rfl
@[simp] theorem notifyFrame_mem (s : State) : (notifyFrame s).mem = s.mem := rfl
@[simp] theorem notifyFrame_fault (s : State) : (notifyFrame s).fault = s.fault := rfl
@[simp] theorem notifyFrame_draw (s : State) : (notifyFrame s).draw = false := rfl
@[simp] theorem notifyFrame_params (s : State) : (notifyFrame s).params = s.params := rfl
@[simp] theorem notifyFrame_config (s : State) : (notifyFrame s).config = s.config := rfl
@[simp] theorem notifyFrame_halted (s : State) : (notifyFrame s).halted = s.halted := rfl
@[simp] theorem notifyFrame_display (s : State) : (notifyFrame s).display = s.display := rfl
@[simp] theorem notifyFrame_input (s : State) : (notifyFrame s).input = s.input := rfl
@[simp] theorem notifyFrame_pending (s : State) : (notifyFrame s).pending = s.pending := rfl
@[simp] theorem notifyFrame_sampleNo (s : State) : (notifyFrame s).sampleNo = s.sampleNo := rfl
@[simp] theorem notifyFrame_insnAddr (s : State) : (notifyFrame s).insnAddr = s.insnAddr := rfl
@[simp] theorem notifyFrame_insnWord (s : State) : (notifyFrame s).insnWord = s.insnWord := rfl
@[simp] theorem notifyFrame_out (s : State) :
    (notifyFrame s).out = { s.out with frameComplete := s.draw } := rfl

/-! `noTick`. -/

@[simp] theorem noTick_V (s : State) : (noTick s).V = s.V := rfl
@[simp] theorem noTick_pc (s : State) : (noTick s).pc = s.pc := rfl
@[simp] theorem noTick_I (s : State) : (noTick s).I = s.I := rfl
@[simp] theorem noTick_stack (s : State) : (noTick s).stack = s.stack := rfl
@[simp] theorem noTick_sp (s : State) : (noTick s).sp = s.sp := rfl
@[simp] theorem noTick_DT (s : State) : (noTick s).DT = s.DT := rfl
@[simp] theorem noTick_ST (s : State) : (noTick s).ST = s.ST := rfl
@[simp] theorem noTick_mem (s : State) : (noTick s).mem = s.mem := rfl
@[simp] theorem noTick_fault (s : State) : (noTick s).fault = s.fault := rfl
@[simp] theorem noTick_draw (s : State) : (noTick s).draw = s.draw := rfl
@[simp] theorem noTick_params (s : State) : (noTick s).params = s.params := rfl
@[simp] theorem noTick_config (s : State) : (noTick s).config = s.config := rfl
@[simp] theorem noTick_halted (s : State) : (noTick s).halted = s.halted := rfl
@[simp] theorem noTick_display (s : State) : (noTick s).display = s.display := rfl
@[simp] theorem noTick_input (s : State) : (noTick s).input = s.input := rfl
@[simp] theorem noTick_pending (s : State) : (noTick s).pending = s.pending := rfl
@[simp] theorem noTick_sampleNo (s : State) : (noTick s).sampleNo = s.sampleNo := rfl
@[simp] theorem noTick_insnAddr (s : State) : (noTick s).insnAddr = s.insnAddr := rfl
@[simp] theorem noTick_insnWord (s : State) : (noTick s).insnWord = s.insnWord := rfl
@[simp] theorem noTick_out (s : State) : (noTick s).out = Outputs.none := rfl

end Sys2Proof.Machine
end

