-- ==== Sys2Proof/Laws/Decode.lean ====
section
/-! SUPPORT. The disassembler seen nibble by nibble: a word as four nibbles, an entry's test as a test of
its template's digits, a field's value as the nibbles it covers. -/

namespace Sys2Proof

/-- The word of four nibbles, the top one first. -/
def word4 (a b c d : Nibble) : Word := a ++ b ++ c ++ d

theorem word4_split (w : Word) :
    w = word4 (w.extractLsb' 12 4) (w.extractLsb' 8 4) (w.extractLsb' 4 4) (w.extractLsb' 0 4) := by
  apply BitVec.eq_of_getLsbD_eq
  intro k hk
  simp only [word4, BitVec.getLsbD_append, BitVec.getLsbD_extractLsb']
  interval_cases k <;> simp

theorem word4_inj (a b c d a' b' c' d' : Nibble) :
    word4 a b c d = word4 a' b' c' d' ↔ a = a' ∧ b = b' ∧ c = c' ∧ d = d' := by
  constructor
  · intro h
    have e3 := congrArg (BitVec.extractLsb' 12 4) h
    have e2 := congrArg (BitVec.extractLsb' 8 4) h
    have e1 := congrArg (BitVec.extractLsb' 4 4) h
    have e0 := congrArg (BitVec.extractLsb' 0 4) h
    refine ⟨?_, ?_, ?_, ?_⟩ <;> apply BitVec.eq_of_getLsbD_eq <;> intro k hk
    · have := congrArg (·.getLsbD k) e3
      simp only [word4, BitVec.getLsbD_append, BitVec.getLsbD_extractLsb'] at this
      interval_cases k <;> simpa using this
    · have := congrArg (·.getLsbD k) e2
      simp only [word4, BitVec.getLsbD_append, BitVec.getLsbD_extractLsb'] at this
      interval_cases k <;> simpa using this
    · have := congrArg (·.getLsbD k) e1
      simp only [word4, BitVec.getLsbD_append, BitVec.getLsbD_extractLsb'] at this
      interval_cases k <;> simpa using this
    · have := congrArg (·.getLsbD k) e0
      simp only [word4, BitVec.getLsbD_append, BitVec.getLsbD_extractLsb'] at this
      interval_cases k <;> simpa using this
  · rintro ⟨rfl, rfl, rfl, rfl⟩; rfl

theorem word4_getLsbD (a b c d : Nibble) (k : Nat) : (word4 a b c d).getLsbD k =
    if k < 4 then d.getLsbD k else if k < 8 then c.getLsbD (k - 4) else
      if k < 12 then b.getLsbD (k - 8) else a.getLsbD (k - 12) := by
  simp only [word4, BitVec.getLsbD_append]
  split_ifs <;> first | rfl | omega

theorem word4_and (a b c d a' b' c' d' : Nibble) :
    word4 a b c d &&& word4 a' b' c' d' = word4 (a &&& a') (b &&& b') (c &&& c') (d &&& d') := by
  apply BitVec.eq_of_getLsbD_eq
  intro k _
  simp only [BitVec.getLsbD_and, word4_getLsbD]
  split_ifs <;> rfl

theorem word4_toNat (a b c d : Nibble) :
    (word4 a b c d).toNat = a.toNat * 4096 + b.toNat * 256 + c.toNat * 16 + d.toNat := by
  simp only [word4, BitVec.toNat_append, Nat.shiftLeft_eq]
  have := a.isLt; have := b.isLt; have := c.isLt; have := d.isLt
  rw [← Nat.shiftLeft_eq, ← Nat.shiftLeft_eq, ← Nat.shiftLeft_eq]
  rw [← Nat.shiftLeft_add_eq_or_of_lt (by omega), ← Nat.shiftLeft_add_eq_or_of_lt (by omega), ← Nat.shiftLeft_add_eq_or_of_lt (by omega)]
  simp only [Nat.shiftLeft_eq]
  omega


theorem and_F (a : Nibble) : a &&& 15#4 = a := by
  rw [show (15#4 : Nibble) = BitVec.allOnes 4 from rfl, BitVec.and_allOnes]

/-- The test of one template nibble on one nibble of a word. -/
def Nib.test (n : Nib) (a : Nibble) : Bool :=
  match n with
  | .lit d => a == d
  | .X | .Y | .N => true

/-- The digit of the fixed mask of one template nibble. -/
def Nib.maskDigit (n : Nib) : Nibble :=
  match n with
  | .lit _ => 0xF
  | .X | .Y | .N => 0

/-- The digit of the fixed value of one template nibble. -/
def Nib.valueDigit (n : Nib) : Nibble :=
  match n with
  | .lit d => d
  | .X | .Y | .N => 0

/-- The test of a template, nibble by nibble. -/
def Template.test (t : Template) (a b c d : Nibble) : Bool :=
  t.n3.test a && (t.n2.test b && (t.n1.test c && t.n0.test d))

theorem Nib.test_eq (n : Nib) (a : Nibble) : (a &&& n.maskDigit == n.valueDigit) = n.test a := by
  cases n <;> simp [Nib.maskDigit, Nib.valueDigit, Nib.test, and_F]

theorem row_digits : ∀ pt ∈ templatesLow ++ templatesHigh,
    pt.2.fixedMask = word4 pt.2.n3.maskDigit pt.2.n2.maskDigit pt.2.n1.maskDigit pt.2.n0.maskDigit ∧
    pt.2.fixedValue =
      word4 pt.2.n3.valueDigit pt.2.n2.valueDigit pt.2.n1.valueDigit pt.2.n0.valueDigit := by
  decide

theorem matchesWord_word4 (pt : Pattern × Template) (h : pt ∈ templatesLow ++ templatesHigh)
    (a b c d : Nibble) :
    (Entry.ofTemplate pt.1 pt.2).matchesWord (word4 a b c d) = pt.2.test a b c d := by
  obtain ⟨hm, hv⟩ := row_digits pt h
  simp only [Entry.matchesWord, Entry.ofTemplate, hm, hv, word4_and, Template.test, ← Nib.test_eq]
  rw [Bool.eq_iff_iff]
  simp [word4_inj]

theorem candidates_word4 (a b c d : Nibble) :
    candidates catalog (word4 a b c d) =
      ((templatesLow ++ templatesHigh).filter fun pt => pt.2.test a b c d).map
        fun pt => Entry.ofTemplate pt.1 pt.2 := by
  rw [candidates, catalog, List.filter_map]
  congr 1
  exact List.filter_congr fun pt h => matchesWord_word4 pt h a b c d

theorem nnn_word4 (l : Nibble) (n : Addr) :
    l ++ n = word4 l (n.extractLsb' 8 4) (n.extractLsb' 4 4) (n.extractLsb' 0 4) := by
  apply BitVec.eq_of_getLsbD_eq
  intro k hk
  rw [word4_getLsbD]
  simp only [BitVec.getLsbD_append, BitVec.getLsbD_extractLsb']
  interval_cases k <;> simp

theorem xnn_word4 (l x : Nibble) (n : Byte) :
    l ++ x ++ n = word4 l x (n.extractLsb' 4 4) (n.extractLsb' 0 4) := by
  apply BitVec.eq_of_getLsbD_eq
  intro k hk
  rw [word4_getLsbD]
  simp only [BitVec.getLsbD_append, BitVec.getLsbD_extractLsb']
  interval_cases k <;> simp

theorem read_X (a b c d : Nibble) : (⟨0x0F00, 8⟩ : Field).read (word4 a b c d) = b.setWidth 16 := by
  rw [Field.read, show (0x0F00 : Word) = word4 0 0xF 0 0 from rfl, word4_and]
  apply BitVec.eq_of_getLsbD_eq
  intro k hk
  simp only [BitVec.getLsbD_ushiftRight, word4_getLsbD, BitVec.getLsbD_setWidth]
  interval_cases k <;> simp [and_F]

theorem read_Y (a b c d : Nibble) : (⟨0x00F0, 4⟩ : Field).read (word4 a b c d) = c.setWidth 16 := by
  rw [Field.read, show (0x00F0 : Word) = word4 0 0 0xF 0 from rfl, word4_and]
  apply BitVec.eq_of_getLsbD_eq
  intro k hk
  simp only [BitVec.getLsbD_ushiftRight, word4_getLsbD, BitVec.getLsbD_setWidth]
  interval_cases k <;> simp [and_F]

theorem read_N (a b c d : Nibble) :
    (⟨0x000F, 0⟩ : Field).read (word4 a b c d) = word4 0 0 0 d ∧
    (⟨0x00FF, 0⟩ : Field).read (word4 a b c d) = word4 0 0 c d ∧
    (⟨0x0FFF, 0⟩ : Field).read (word4 a b c d) = word4 0 b c d := by
  refine ⟨?_, ?_, ?_⟩ <;> rw [Field.read]
  · rw [show (0x000F : Word) = word4 0 0 0 0xF from rfl, word4_and]; simp [and_F]
  · rw [show (0x00FF : Word) = word4 0 0 0xF 0xF from rfl, word4_and]; simp [and_F]
  · rw [show (0x0FFF : Word) = word4 0 0xF 0xF 0xF from rfl, word4_and]; simp [and_F]

theorem setWidth_nnn (n : Addr) :
    (word4 0 (n.extractLsb' 8 4) (n.extractLsb' 4 4) (n.extractLsb' 0 4)).setWidth 12 = n := by
  apply BitVec.eq_of_getLsbD_eq
  intro k hk
  simp only [BitVec.getLsbD_setWidth, word4_getLsbD, BitVec.getLsbD_extractLsb']
  interval_cases k <;> simp

theorem setWidth_nn (n : Byte) :
    (word4 0 0 (n.extractLsb' 4 4) (n.extractLsb' 0 4)).setWidth 8 = n := by
  apply BitVec.eq_of_getLsbD_eq
  intro k hk
  simp only [BitVec.getLsbD_setWidth, word4_getLsbD, BitVec.getLsbD_extractLsb']
  interval_cases k <;> simp

theorem setWidth_n (n : Nibble) : (word4 0 0 0 n).setWidth 4 = n := by
  apply BitVec.eq_of_getLsbD_eq
  intro k hk
  simp only [BitVec.getLsbD_setWidth, word4_getLsbD]
  interval_cases k <;> simp

theorem reg_regBits (x : Reg) : regOfField ((regBits x).setWidth 16) = x := by
  revert x; decide

end Sys2Proof
end

