-- ==== Sys2Proof/Laws/Display.lean ====
section
/-! SUPPORT. The laws of the display plane: what one toggle and a run of toggles do to each pixel, that they
keep the canonical form, which pixels a sprite covers, and when it covers none twice. -/

namespace Sys2Proof.Machine

theorem Plane.pixel_iff (d : Plane) (x y : Nat) : d.pixel x y = true ↔ (x, y) ∈ d := by
  simp [Plane.pixel]

theorem Plane.mem_insertPixel (q r : Nat × Nat) (d : Plane) : r ∈ Plane.insertPixel q d ↔ r = q ∨ r ∈ d := by
  induction d with
  | nil => simp [Plane.insertPixel]
  | cons e rest ih =>
    unfold Plane.insertPixel
    split_ifs <;> simp [ih]; tauto

/-- A plane after one toggle (60_exceptions R247). -/
theorem Plane.pixel_flip (d : Plane) (x y x' y' : Nat) :
    (d.flip x y).pixel x' y' = if (x', y') = (x, y) then !d.pixel x y else d.pixel x' y' := by
  rw [Bool.eq_iff_iff, Plane.pixel_iff]
  by_cases hp : (x, y) ∈ d
  · have hp' := (Plane.pixel_iff d x y).2 hp
    rw [Plane.flip, if_pos hp', hp', List.mem_filter]
    split_ifs with h
    · simp [h]
    · simp only [bne_iff_ne, ne_eq, h, not_false_eq_true, and_true, Plane.pixel_iff]
  · have hp' : d.pixel x y = false := by rw [Bool.eq_false_iff, ne_eq, Plane.pixel_iff]; exact hp
    rw [Plane.flip, hp', if_neg (by simp), Plane.mem_insertPixel]
    split_ifs with h
    · simp [h]
    · simp only [h, false_or, Plane.pixel_iff]

theorem Plane.pairwise_insertPixel (q : Nat × Nat) (d : Plane) (hd : d.Pairwise Plane.before) (hq : q ∉ d) :
    (Plane.insertPixel q d).Pairwise Plane.before := by
  induction d with
  | nil => simp [Plane.insertPixel]
  | cons e rest ih =>
    obtain ⟨he, hr⟩ := List.pairwise_cons.1 hd
    unfold Plane.insertPixel
    split_ifs with hlt
    · refine List.pairwise_cons.2 ⟨fun r hr => ?_, hd⟩
      rcases List.mem_cons.1 hr with rfl | hr
      · exact hlt
      · have := he r hr
        simp only [Plane.before] at *
        omega
    · refine List.pairwise_cons.2 ⟨fun r hr' => ?_, ih hr fun h => hq (by simp [h])⟩
      rcases (Plane.mem_insertPixel q r rest).1 hr' with rfl | hr'
      · have hne : r ≠ e := fun h => hq (by simp [h])
        simp only [Plane.before, ne_eq, Prod.ext_iff] at *
        omega
      · exact he r hr'

/-- A toggle of a pixel inside the resolution keeps the canonical form. -/
theorem Plane.wf_flip (d : Plane) (p : Parameters) (x y : Nat) (hx : x < p.displayWidth)
    (hy : y < p.displayHeight) (h : d.wf p) : (d.flip x y).wf p := by
  unfold Plane.flip
  split_ifs with hp
  · exact ⟨h.1.filter _, fun q hq => h.2 q (List.mem_filter.1 hq).1⟩
  · refine ⟨Plane.pairwise_insertPixel _ _ h.1 fun hm => hp ((Plane.pixel_iff d x y).2 hm), fun q hq => ?_⟩
    rcases (Plane.mem_insertPixel _ _ _).1 hq with rfl | hq
    · exact ⟨hx, hy⟩
    · exact h.2 q hq

/-- A run of toggles inside the resolution keeps the canonical form. -/
theorem Plane.wf_toggleAll (l : List (Nat × Nat)) (d : Plane) (p : Parameters)
    (hl : ∀ q ∈ l, q.1 < p.displayWidth ∧ q.2 < p.displayHeight) (h : d.wf p) :
    (d.toggleAll l).1.wf p := by
  induction l generalizing d with
  | nil => exact h
  | cons q rest ih =>
    obtain ⟨hq, hr⟩ := List.forall_mem_cons.1 hl
    exact ih (d.flip q.1 q.2) hr (Plane.wf_flip d p q.1 q.2 hq.1 hq.2 h)

/-- Toggling distinct pixels inverts exactly those (44_display_input_timers R201). -/
theorem Plane.pixel_toggleAll (l : List (Nat × Nat)) (h : l.Nodup) (d : Plane) (x y : Nat) :
    (d.toggleAll l).1.pixel x y = if (x, y) ∈ l then !d.pixel x y else d.pixel x y := by
  induction l generalizing d with
  | nil => rfl
  | cons q rest ih =>
    obtain ⟨hq, hr⟩ := List.nodup_cons.1 h
    simp only [Plane.toggleAll, ih hr, Plane.pixel_flip, List.mem_cons]
    by_cases he : (x, y) = (q.1, q.2)
    · have hn : ¬((x, y) ∈ rest) := by rw [he]; exact hq
      obtain ⟨rfl, rfl⟩ := Prod.mk.inj he
      simp [hn]
    · have he' : ¬((x, y) = q) := he
      simp [he']

/-- Toggling distinct pixels reports whether one of them was on (60_exceptions R246). -/
theorem Plane.collision_toggleAll (l : List (Nat × Nat)) (h : l.Nodup) (d : Plane) :
    (d.toggleAll l).2 = true ↔ ∃ q ∈ l, d.pixel q.1 q.2 = true := by
  induction l generalizing d with
  | nil => simp [Plane.toggleAll]
  | cons q rest ih =>
    obtain ⟨hq, hr⟩ := List.nodup_cons.1 h
    have key : ∀ a ∈ rest, (d.flip q.1 q.2).pixel a.1 a.2 = d.pixel a.1 a.2 := by
      intro a ha
      rw [Plane.pixel_flip, if_neg]
      rintro he
      exact hq (by rw [← show a = q from he]; exact ha)
    simp only [Plane.toggleAll, Bool.or_eq_true, ih hr, List.exists_mem_cons_iff]
    constructor
    · rintro (h | ⟨a, ha, h⟩)
      · exact .inl h
      · exact .inr ⟨a, ha, by rw [← key a ha]; exact h⟩
    · rintro (h | ⟨a, ha, h⟩)
      · exact .inl h
      · exact .inr ⟨a, ha, by rw [key a ha]; exact h⟩

/-- The pixels of a sprite (44_display_input_timers R201). -/
theorem mem_spritePixels (s : State) (px py n x y : Nat) : (x, y) ∈ spritePixels s px py n ↔
    ∃ r c : Nat, r < n ∧ c < 8 ∧ (memRead s (effAddr s r)).getLsbD (7 - c) = true ∧
      x = (px + c) % s.params.displayWidth ∧ y = (py + r) % s.params.displayHeight := by
  simp only [spritePixels, rowPixels, List.mem_flatMap, List.mem_range, List.mem_filterMap]
  constructor
  · rintro ⟨r, hr, c, hc, h⟩
    split_ifs at h with hb
    obtain ⟨rfl, rfl⟩ := Prod.mk.inj (Option.some.inj h)
    exact ⟨r, c, hr, hc, hb, rfl, rfl⟩
  · rintro ⟨r, c, hr, hc, hb, hx, hy⟩
    refine ⟨r, hr, c, hc, ?_⟩
    rw [if_pos hb]
    exact congrArg some (Prod.ext hx.symm hy.symm)

/-- The pixels of a sprite stand inside the resolution (44_display_input_timers R201). -/
theorem spritePixels_inside (s : State) (px py n : Nat) (h : s.params.Wf) :
    ∀ q ∈ spritePixels s px py n, q.1 < s.params.displayWidth ∧ q.2 < s.params.displayHeight := by
  intro q hq
  obtain ⟨r, c, _, _, _, hx, hy⟩ := (mem_spritePixels s px py n q.1 q.2).1 hq
  exact ⟨hx ▸ Nat.mod_lt _ h.width, hy ▸ Nat.mod_lt _ h.height⟩

/-- Two numbers less than `m` apart agree modulo `m` only where they are equal. -/
theorem add_mod_inj {a c d m : Nat} (hc : c < m) (hd : d < m) (h : (a + c) % m = (a + d) % m) : c = d := by
  have h' : c ≡ d [MOD m] := Nat.ModEq.add_left_cancel' a h
  exact Nat.ModEq.eq_of_lt_of_lt h' hc hd

/-- A sprite no wider and no higher than the display covers no pixel twice. -/
theorem nodup_spritePixels (s : State) (px py n : Nat) (hw : 8 ≤ s.params.displayWidth)
    (hn : n ≤ s.params.displayHeight) : (spritePixels s px py n).Nodup := by
  rw [spritePixels, List.nodup_flatMap]
  refine ⟨fun r _ => ?_, ?_⟩
  · refine List.pairwise_filterMap.2 (List.Pairwise.imp_of_mem ?_ List.nodup_range)
    intro c c' hc hc' hne q h q' h' hqq
    subst hqq
    split_ifs at h h'
    have e := congrArg Prod.fst (Option.some.inj (h.trans h'.symm))
    rw [List.mem_range] at hc hc'
    exact hne (add_mod_inj (by omega) (by omega) e)
  · refine List.Pairwise.imp_of_mem ?_ List.nodup_range
    intro r r' hr hr' hne q hq hq'
    simp only [rowPixels, List.mem_filterMap, List.mem_range] at hq hq' hr hr'
    obtain ⟨c, _, h⟩ := hq
    obtain ⟨c', _, h'⟩ := hq'
    split_ifs at h h'
    have e := congrArg Prod.snd (Option.some.inj (h.trans h'.symm))
    exact hne (add_mod_inj (by omega) (by omega) e)

end Sys2Proof.Machine
end

