-- ==== Sys2Proof/Laws/Memory.lean ====
section
/-! SUPPORT. The laws of the memory list: a read after a write, and the canonical form kept by every
write. -/

namespace Sys2Proof.Machine

theorem Memory.lookup_filter_ne (m : Memory) (p : Parameters) (a b : Nat) (h : b ≠ a) :
    Memory.lookup (m.filter fun c => c.1 != a) p b = m.lookup p b := by
  induction m with
  | nil => rfl
  | cons c rest ih =>
    by_cases hc : c.1 = a
    · have hb : c.1 ≠ b := fun h' => h (h'.symm.trans hc)
      simp [Memory.lookup, hc, ih, Ne.symm h]
    · simp [Memory.lookup, hc, ih]

theorem Memory.lookup_of_no_entry (m : Memory) (p : Parameters) (a : Nat) (h : ∀ c ∈ m, c.1 ≠ a) :
    m.lookup p a = Memory.unlisted p a := by
  induction m with
  | nil => rfl
  | cons c rest ih =>
    simp [Memory.lookup, h c (by simp), ih fun d hd => h d (by simp [hd])]

theorem Memory.lookup_insertCell (c : Host.Cell) (m : Memory) (p : Parameters) (b : Nat)
    (h : ∀ d ∈ m, d.1 ≠ c.1) :
    (Memory.insertCell c m).lookup p b = if c.1 = b then c.2 else m.lookup p b := by
  induction m with
  | nil => rfl
  | cons d rest ih =>
    have hd := h d (by simp)
    have hr := ih fun e he => h e (by simp [he])
    by_cases hlt : c.1 < d.1
    · simp [Memory.insertCell, hlt, Memory.lookup]
    · simp only [Memory.insertCell, hlt, if_false, Memory.lookup, hr]
      split_ifs <;> simp_all

/-- A read after a write: the byte written at its address, the old byte at any other. -/
theorem Memory.lookup_store (m : Memory) (p : Parameters) (a b : Nat) (v : Byte) :
    (m.store p a v).lookup p b = if a = b then v else m.lookup p b := by
  have hno : ∀ d ∈ m.filter (fun c => c.1 != a), d.1 ≠ a := by simp
  unfold Memory.store
  by_cases hv : v = Memory.unlisted p a
  · simp only [hv, if_true]
    split_ifs with hab
    · subst hab; exact Memory.lookup_of_no_entry _ _ _ hno
    · exact Memory.lookup_filter_ne m p a b (Ne.symm hab)
  · simp only [hv, if_false, Memory.lookup_insertCell (a, v) _ p b hno]
    split_ifs with hab
    · rfl
    · exact Memory.lookup_filter_ne m p a b (Ne.symm hab)

theorem Memory.mem_insertCell (c d : Host.Cell) (m : Memory) :
    d ∈ Memory.insertCell c m ↔ d = c ∨ d ∈ m := by
  induction m with
  | nil => simp [Memory.insertCell]
  | cons e rest ih =>
    unfold Memory.insertCell
    split_ifs <;> simp [ih]; tauto

theorem Memory.pairwise_insertCell (c : Host.Cell) (m : Memory)
    (hm : m.Pairwise fun c d => c.1 < d.1) (h : ∀ d ∈ m, d.1 ≠ c.1) :
    (Memory.insertCell c m).Pairwise fun c d => c.1 < d.1 := by
  induction m with
  | nil => simp [Memory.insertCell]
  | cons e rest ih =>
    obtain ⟨he, hr⟩ := List.pairwise_cons.1 hm
    unfold Memory.insertCell
    split_ifs with hlt
    · refine List.pairwise_cons.2 ⟨fun d hd => ?_, hm⟩
      rcases List.mem_cons.1 hd with rfl | hd
      · exact hlt
      · exact hlt.trans (he d hd)
    · refine List.pairwise_cons.2 ⟨fun d hd => ?_, ih hr fun d hd => h d (by simp [hd])⟩
      rcases (Memory.mem_insertCell c d rest).1 hd with rfl | hd
      · have := h e (by simp); omega
      · exact he d hd

/-- A write keeps the canonical form. -/
theorem Memory.wf_store (m : Memory) (p : Parameters) (a : Nat) (v : Byte) (ha : a < p.memSize)
    (hm : m.wf p) : (m.store p a v).wf p := by
  obtain ⟨hp, he⟩ := hm
  have hp' := hp.filter fun c => c.1 != a
  have he' : ∀ c ∈ m.filter (fun c => c.1 != a), c.1 < p.memSize ∧ c.2 ≠ Memory.unlisted p c.1 :=
    fun c hc => he c (List.mem_filter.1 hc).1
  unfold Memory.store
  by_cases hv : v = Memory.unlisted p a
  · simpa only [hv, if_true] using ⟨hp', he'⟩
  · simp only [hv, if_false]
    refine ⟨Memory.pairwise_insertCell _ _ hp' (by simp), fun c hc => ?_⟩
    rcases (Memory.mem_insertCell _ _ _).1 hc with rfl | hc
    · exact ⟨ha, hv⟩
    · exact he' c hc

end Sys2Proof.Machine
end

