-- ==== Sys2Proof/Laws/State.lean ====
section
/-! SUPPORT. What each named update of the state leaves in each field, so that no proof unfolds a record
update. -/

namespace Sys2Proof.Machine

/-- On this hardware every `sp` is the number of a stack entry (10_state R26). -/
theorem stackIndex (j : Nibble) : Fin.ofNat 16 j.toNat = j.toFin := Fin.ext (Nat.mod_eq_of_lt j.isLt)

/-! `writeReg`. -/

@[simp] theorem writeReg_V (x : Reg) (v : Byte) (s : State) : (writeReg x v s).V = s.V.set x v := rfl
@[simp] theorem writeReg_pc (x : Reg) (v : Byte) (s : State) : (writeReg x v s).pc = s.pc := rfl
@[simp] theorem writeReg_I (x : Reg) (v : Byte) (s : State) : (writeReg x v s).I = s.I := rfl
@[simp] theorem writeReg_stack (x : Reg) (v : Byte) (s : State) : (writeReg x v s).stack = s.stack := rfl
@[simp] theorem writeReg_sp (x : Reg) (v : Byte) (s : State) : (writeReg x v s).sp = s.sp := rfl
@[simp] theorem writeReg_DT (x : Reg) (v : Byte) (s : State) : (writeReg x v s).DT = s.DT := rfl
@[simp] theorem writeReg_ST (x : Reg) (v : Byte) (s : State) : (writeReg x v s).ST = s.ST := rfl
@[simp] theorem writeReg_mem (x : Reg) (v : Byte) (s : State) : (writeReg x v s).mem = s.mem := rfl
@[simp] theorem writeReg_fault (x : Reg) (v : Byte) (s : State) : (writeReg x v s).fault = s.fault := rfl
@[simp] theorem writeReg_draw (x : Reg) (v : Byte) (s : State) : (writeReg x v s).draw = s.draw := rfl
@[simp] theorem writeReg_params (x : Reg) (v : Byte) (s : State) : (writeReg x v s).params = s.params := rfl
@[simp] theorem writeReg_config (x : Reg) (v : Byte) (s : State) : (writeReg x v s).config = s.config := rfl
@[simp] theorem writeReg_halted (x : Reg) (v : Byte) (s : State) : (writeReg x v s).halted = s.halted := rfl
@[simp] theorem writeReg_display (x : Reg) (v : Byte) (s : State) :
    (writeReg x v s).display = s.display := rfl
@[simp] theorem writeReg_input (x : Reg) (v : Byte) (s : State) : (writeReg x v s).input = s.input := rfl
@[simp] theorem writeReg_pending (x : Reg) (v : Byte) (s : State) :
    (writeReg x v s).pending = s.pending := rfl
@[simp] theorem writeReg_sampleNo (x : Reg) (v : Byte) (s : State) :
    (writeReg x v s).sampleNo = s.sampleNo := rfl
@[simp] theorem writeReg_insnAddr (x : Reg) (v : Byte) (s : State) :
    (writeReg x v s).insnAddr = s.insnAddr := rfl
@[simp] theorem writeReg_insnWord (x : Reg) (v : Byte) (s : State) :
    (writeReg x v s).insnWord = s.insnWord := rfl
@[simp] theorem writeReg_out (x : Reg) (v : Byte) (s : State) : (writeReg x v s).out = s.out := rfl

/-! `writePc`. -/

@[simp] theorem writePc_V (t : Word) (s : State) : (writePc t s).V = s.V := rfl
@[simp] theorem writePc_pc (t : Word) (s : State) : (writePc t s).pc = t &&& s.params.addrMask := rfl
@[simp] theorem writePc_I (t : Word) (s : State) : (writePc t s).I = s.I := rfl
@[simp] theorem writePc_stack (t : Word) (s : State) : (writePc t s).stack = s.stack := rfl
@[simp] theorem writePc_sp (t : Word) (s : State) : (writePc t s).sp = s.sp := rfl
@[simp] theorem writePc_DT (t : Word) (s : State) : (writePc t s).DT = s.DT := rfl
@[simp] theorem writePc_ST (t : Word) (s : State) : (writePc t s).ST = s.ST := rfl
@[simp] theorem writePc_mem (t : Word) (s : State) : (writePc t s).mem = s.mem := rfl
@[simp] theorem writePc_fault (t : Word) (s : State) : (writePc t s).fault = s.fault := rfl
@[simp] theorem writePc_draw (t : Word) (s : State) : (writePc t s).draw = s.draw := rfl
@[simp] theorem writePc_params (t : Word) (s : State) : (writePc t s).params = s.params := rfl
@[simp] theorem writePc_config (t : Word) (s : State) : (writePc t s).config = s.config := rfl
@[simp] theorem writePc_halted (t : Word) (s : State) : (writePc t s).halted = s.halted := rfl
@[simp] theorem writePc_display (t : Word) (s : State) : (writePc t s).display = s.display := rfl
@[simp] theorem writePc_input (t : Word) (s : State) : (writePc t s).input = s.input := rfl
@[simp] theorem writePc_pending (t : Word) (s : State) : (writePc t s).pending = s.pending := rfl
@[simp] theorem writePc_sampleNo (t : Word) (s : State) : (writePc t s).sampleNo = s.sampleNo := rfl
@[simp] theorem writePc_insnAddr (t : Word) (s : State) : (writePc t s).insnAddr = s.insnAddr := rfl
@[simp] theorem writePc_insnWord (t : Word) (s : State) : (writePc t s).insnWord = s.insnWord := rfl
@[simp] theorem writePc_out (t : Word) (s : State) : (writePc t s).out = s.out := rfl

/-! `writeI`. -/

@[simp] theorem writeI_V (v : Word) (s : State) : (writeI v s).V = s.V := rfl
@[simp] theorem writeI_pc (v : Word) (s : State) : (writeI v s).pc = s.pc := rfl
@[simp] theorem writeI_I (v : Word) (s : State) : (writeI v s).I = v := rfl
@[simp] theorem writeI_stack (v : Word) (s : State) : (writeI v s).stack = s.stack := rfl
@[simp] theorem writeI_sp (v : Word) (s : State) : (writeI v s).sp = s.sp := rfl
@[simp] theorem writeI_DT (v : Word) (s : State) : (writeI v s).DT = s.DT := rfl
@[simp] theorem writeI_ST (v : Word) (s : State) : (writeI v s).ST = s.ST := rfl
@[simp] theorem writeI_mem (v : Word) (s : State) : (writeI v s).mem = s.mem := rfl
@[simp] theorem writeI_fault (v : Word) (s : State) : (writeI v s).fault = s.fault := rfl
@[simp] theorem writeI_draw (v : Word) (s : State) : (writeI v s).draw = s.draw := rfl
@[simp] theorem writeI_params (v : Word) (s : State) : (writeI v s).params = s.params := rfl
@[simp] theorem writeI_config (v : Word) (s : State) : (writeI v s).config = s.config := rfl
@[simp] theorem writeI_halted (v : Word) (s : State) : (writeI v s).halted = s.halted := rfl
@[simp] theorem writeI_display (v : Word) (s : State) : (writeI v s).display = s.display := rfl
@[simp] theorem writeI_input (v : Word) (s : State) : (writeI v s).input = s.input := rfl
@[simp] theorem writeI_pending (v : Word) (s : State) : (writeI v s).pending = s.pending := rfl
@[simp] theorem writeI_sampleNo (v : Word) (s : State) : (writeI v s).sampleNo = s.sampleNo := rfl
@[simp] theorem writeI_insnAddr (v : Word) (s : State) : (writeI v s).insnAddr = s.insnAddr := rfl
@[simp] theorem writeI_insnWord (v : Word) (s : State) : (writeI v s).insnWord = s.insnWord := rfl
@[simp] theorem writeI_out (v : Word) (s : State) : (writeI v s).out = s.out := rfl

/-! `writeStack`. -/

@[simp] theorem writeStack_V (j : Nibble) (v : Word) (s : State) : (writeStack j v s).V = s.V := rfl
@[simp] theorem writeStack_pc (j : Nibble) (v : Word) (s : State) : (writeStack j v s).pc = s.pc := rfl
@[simp] theorem writeStack_I (j : Nibble) (v : Word) (s : State) : (writeStack j v s).I = s.I := rfl
@[simp] theorem writeStack_stack (j : Nibble) (v : Word) (s : State) :
    (writeStack j v s).stack = s.stack.set j.toFin v :=
  congrArg (fun k : Fin 16 => s.stack.set k v) (stackIndex j)
@[simp] theorem writeStack_sp (j : Nibble) (v : Word) (s : State) : (writeStack j v s).sp = s.sp := rfl
@[simp] theorem writeStack_DT (j : Nibble) (v : Word) (s : State) : (writeStack j v s).DT = s.DT := rfl
@[simp] theorem writeStack_ST (j : Nibble) (v : Word) (s : State) : (writeStack j v s).ST = s.ST := rfl
@[simp] theorem writeStack_mem (j : Nibble) (v : Word) (s : State) : (writeStack j v s).mem = s.mem := rfl
@[simp] theorem writeStack_fault (j : Nibble) (v : Word) (s : State) :
    (writeStack j v s).fault = s.fault := rfl
@[simp] theorem writeStack_draw (j : Nibble) (v : Word) (s : State) : (writeStack j v s).draw = s.draw := rfl
@[simp] theorem writeStack_params (j : Nibble) (v : Word) (s : State) :
    (writeStack j v s).params = s.params := rfl
@[simp] theorem writeStack_config (j : Nibble) (v : Word) (s : State) :
    (writeStack j v s).config = s.config := rfl
@[simp] theorem writeStack_halted (j : Nibble) (v : Word) (s : State) :
    (writeStack j v s).halted = s.halted := rfl
@[simp] theorem writeStack_display (j : Nibble) (v : Word) (s : State) :
    (writeStack j v s).display = s.display := rfl
@[simp] theorem writeStack_input (j : Nibble) (v : Word) (s : State) :
    (writeStack j v s).input = s.input := rfl
@[simp] theorem writeStack_pending (j : Nibble) (v : Word) (s : State) :
    (writeStack j v s).pending = s.pending := rfl
@[simp] theorem writeStack_sampleNo (j : Nibble) (v : Word) (s : State) :
    (writeStack j v s).sampleNo = s.sampleNo := rfl
@[simp] theorem writeStack_insnAddr (j : Nibble) (v : Word) (s : State) :
    (writeStack j v s).insnAddr = s.insnAddr := rfl
@[simp] theorem writeStack_insnWord (j : Nibble) (v : Word) (s : State) :
    (writeStack j v s).insnWord = s.insnWord := rfl
@[simp] theorem writeStack_out (j : Nibble) (v : Word) (s : State) : (writeStack j v s).out = s.out := rfl

/-! `writeSp`. -/

@[simp] theorem writeSp_V (v : Nibble) (s : State) : (writeSp v s).V = s.V := rfl
@[simp] theorem writeSp_pc (v : Nibble) (s : State) : (writeSp v s).pc = s.pc := rfl
@[simp] theorem writeSp_I (v : Nibble) (s : State) : (writeSp v s).I = s.I := rfl
@[simp] theorem writeSp_stack (v : Nibble) (s : State) : (writeSp v s).stack = s.stack := rfl
@[simp] theorem writeSp_sp (v : Nibble) (s : State) : (writeSp v s).sp = v := rfl
@[simp] theorem writeSp_DT (v : Nibble) (s : State) : (writeSp v s).DT = s.DT := rfl
@[simp] theorem writeSp_ST (v : Nibble) (s : State) : (writeSp v s).ST = s.ST := rfl
@[simp] theorem writeSp_mem (v : Nibble) (s : State) : (writeSp v s).mem = s.mem := rfl
@[simp] theorem writeSp_fault (v : Nibble) (s : State) : (writeSp v s).fault = s.fault := rfl
@[simp] theorem writeSp_draw (v : Nibble) (s : State) : (writeSp v s).draw = s.draw := rfl
@[simp] theorem writeSp_params (v : Nibble) (s : State) : (writeSp v s).params = s.params := rfl
@[simp] theorem writeSp_config (v : Nibble) (s : State) : (writeSp v s).config = s.config := rfl
@[simp] theorem writeSp_halted (v : Nibble) (s : State) : (writeSp v s).halted = s.halted := rfl
@[simp] theorem writeSp_display (v : Nibble) (s : State) : (writeSp v s).display = s.display := rfl
@[simp] theorem writeSp_input (v : Nibble) (s : State) : (writeSp v s).input = s.input := rfl
@[simp] theorem writeSp_pending (v : Nibble) (s : State) : (writeSp v s).pending = s.pending := rfl
@[simp] theorem writeSp_sampleNo (v : Nibble) (s : State) : (writeSp v s).sampleNo = s.sampleNo := rfl
@[simp] theorem writeSp_insnAddr (v : Nibble) (s : State) : (writeSp v s).insnAddr = s.insnAddr := rfl
@[simp] theorem writeSp_insnWord (v : Nibble) (s : State) : (writeSp v s).insnWord = s.insnWord := rfl
@[simp] theorem writeSp_out (v : Nibble) (s : State) : (writeSp v s).out = s.out := rfl

/-! `writeDT`. -/

@[simp] theorem writeDT_V (v : Byte) (s : State) : (writeDT v s).V = s.V := rfl
@[simp] theorem writeDT_pc (v : Byte) (s : State) : (writeDT v s).pc = s.pc := rfl
@[simp] theorem writeDT_I (v : Byte) (s : State) : (writeDT v s).I = s.I := rfl
@[simp] theorem writeDT_stack (v : Byte) (s : State) : (writeDT v s).stack = s.stack := rfl
@[simp] theorem writeDT_sp (v : Byte) (s : State) : (writeDT v s).sp = s.sp := rfl
@[simp] theorem writeDT_DT (v : Byte) (s : State) : (writeDT v s).DT = v := rfl
@[simp] theorem writeDT_ST (v : Byte) (s : State) : (writeDT v s).ST = s.ST := rfl
@[simp] theorem writeDT_mem (v : Byte) (s : State) : (writeDT v s).mem = s.mem := rfl
@[simp] theorem writeDT_fault (v : Byte) (s : State) : (writeDT v s).fault = s.fault := rfl
@[simp] theorem writeDT_draw (v : Byte) (s : State) : (writeDT v s).draw = s.draw := rfl
@[simp] theorem writeDT_params (v : Byte) (s : State) : (writeDT v s).params = s.params := rfl
@[simp] theorem writeDT_config (v : Byte) (s : State) : (writeDT v s).config = s.config := rfl
@[simp] theorem writeDT_halted (v : Byte) (s : State) : (writeDT v s).halted = s.halted := rfl
@[simp] theorem writeDT_display (v : Byte) (s : State) : (writeDT v s).display = s.display := rfl
@[simp] theorem writeDT_input (v : Byte) (s : State) : (writeDT v s).input = s.input := rfl
@[simp] theorem writeDT_pending (v : Byte) (s : State) : (writeDT v s).pending = s.pending := rfl
@[simp] theorem writeDT_sampleNo (v : Byte) (s : State) : (writeDT v s).sampleNo = s.sampleNo := rfl
@[simp] theorem writeDT_insnAddr (v : Byte) (s : State) : (writeDT v s).insnAddr = s.insnAddr := rfl
@[simp] theorem writeDT_insnWord (v : Byte) (s : State) : (writeDT v s).insnWord = s.insnWord := rfl
@[simp] theorem writeDT_out (v : Byte) (s : State) : (writeDT v s).out = s.out := rfl

/-! `writeST`. -/

@[simp] theorem writeST_V (v : Byte) (s : State) : (writeST v s).V = s.V := rfl
@[simp] theorem writeST_pc (v : Byte) (s : State) : (writeST v s).pc = s.pc := rfl
@[simp] theorem writeST_I (v : Byte) (s : State) : (writeST v s).I = s.I := rfl
@[simp] theorem writeST_stack (v : Byte) (s : State) : (writeST v s).stack = s.stack := rfl
@[simp] theorem writeST_sp (v : Byte) (s : State) : (writeST v s).sp = s.sp := rfl
@[simp] theorem writeST_DT (v : Byte) (s : State) : (writeST v s).DT = s.DT := rfl
@[simp] theorem writeST_ST (v : Byte) (s : State) : (writeST v s).ST = v := rfl
@[simp] theorem writeST_mem (v : Byte) (s : State) : (writeST v s).mem = s.mem := rfl
@[simp] theorem writeST_fault (v : Byte) (s : State) : (writeST v s).fault = s.fault := rfl
@[simp] theorem writeST_draw (v : Byte) (s : State) : (writeST v s).draw = s.draw := rfl
@[simp] theorem writeST_params (v : Byte) (s : State) : (writeST v s).params = s.params := rfl
@[simp] theorem writeST_config (v : Byte) (s : State) : (writeST v s).config = s.config := rfl
@[simp] theorem writeST_halted (v : Byte) (s : State) : (writeST v s).halted = s.halted := rfl
@[simp] theorem writeST_display (v : Byte) (s : State) : (writeST v s).display = s.display := rfl
@[simp] theorem writeST_input (v : Byte) (s : State) : (writeST v s).input = s.input := rfl
@[simp] theorem writeST_pending (v : Byte) (s : State) : (writeST v s).pending = s.pending := rfl
@[simp] theorem writeST_sampleNo (v : Byte) (s : State) : (writeST v s).sampleNo = s.sampleNo := rfl
@[simp] theorem writeST_insnAddr (v : Byte) (s : State) : (writeST v s).insnAddr = s.insnAddr := rfl
@[simp] theorem writeST_insnWord (v : Byte) (s : State) : (writeST v s).insnWord = s.insnWord := rfl
@[simp] theorem writeST_out (v : Byte) (s : State) : (writeST v s).out = s.out := rfl

/-! `memWrite`. -/

@[simp] theorem memWrite_V (a : Word) (v : Byte) (s : State) : (memWrite a v s).V = s.V := rfl
@[simp] theorem memWrite_pc (a : Word) (v : Byte) (s : State) : (memWrite a v s).pc = s.pc := rfl
@[simp] theorem memWrite_I (a : Word) (v : Byte) (s : State) : (memWrite a v s).I = s.I := rfl
@[simp] theorem memWrite_stack (a : Word) (v : Byte) (s : State) : (memWrite a v s).stack = s.stack := rfl
@[simp] theorem memWrite_sp (a : Word) (v : Byte) (s : State) : (memWrite a v s).sp = s.sp := rfl
@[simp] theorem memWrite_DT (a : Word) (v : Byte) (s : State) : (memWrite a v s).DT = s.DT := rfl
@[simp] theorem memWrite_ST (a : Word) (v : Byte) (s : State) : (memWrite a v s).ST = s.ST := rfl
@[simp] theorem memWrite_mem (a : Word) (v : Byte) (s : State) :
    (memWrite a v s).mem = s.mem.write s.params a v := rfl
@[simp] theorem memWrite_fault (a : Word) (v : Byte) (s : State) : (memWrite a v s).fault = s.fault := rfl
@[simp] theorem memWrite_draw (a : Word) (v : Byte) (s : State) : (memWrite a v s).draw = s.draw := rfl
@[simp] theorem memWrite_params (a : Word) (v : Byte) (s : State) : (memWrite a v s).params = s.params := rfl
@[simp] theorem memWrite_config (a : Word) (v : Byte) (s : State) : (memWrite a v s).config = s.config := rfl
@[simp] theorem memWrite_halted (a : Word) (v : Byte) (s : State) : (memWrite a v s).halted = s.halted := rfl
@[simp] theorem memWrite_display (a : Word) (v : Byte) (s : State) :
    (memWrite a v s).display = s.display := rfl
@[simp] theorem memWrite_input (a : Word) (v : Byte) (s : State) : (memWrite a v s).input = s.input := rfl
@[simp] theorem memWrite_pending (a : Word) (v : Byte) (s : State) :
    (memWrite a v s).pending = s.pending := rfl
@[simp] theorem memWrite_sampleNo (a : Word) (v : Byte) (s : State) :
    (memWrite a v s).sampleNo = s.sampleNo := rfl
@[simp] theorem memWrite_insnAddr (a : Word) (v : Byte) (s : State) :
    (memWrite a v s).insnAddr = s.insnAddr := rfl
@[simp] theorem memWrite_insnWord (a : Word) (v : Byte) (s : State) :
    (memWrite a v s).insnWord = s.insnWord := rfl
@[simp] theorem memWrite_out (a : Word) (v : Byte) (s : State) : (memWrite a v s).out = s.out := rfl

/-! `storeBytes`. -/

@[simp] theorem storeBytes_V (a : Word) (bs : List Byte) (s : State) : (storeBytes a bs s).V = s.V := rfl
@[simp] theorem storeBytes_pc (a : Word) (bs : List Byte) (s : State) : (storeBytes a bs s).pc = s.pc := rfl
@[simp] theorem storeBytes_I (a : Word) (bs : List Byte) (s : State) : (storeBytes a bs s).I = s.I := rfl
@[simp] theorem storeBytes_stack (a : Word) (bs : List Byte) (s : State) :
    (storeBytes a bs s).stack = s.stack := rfl
@[simp] theorem storeBytes_sp (a : Word) (bs : List Byte) (s : State) : (storeBytes a bs s).sp = s.sp := rfl
@[simp] theorem storeBytes_DT (a : Word) (bs : List Byte) (s : State) : (storeBytes a bs s).DT = s.DT := rfl
@[simp] theorem storeBytes_ST (a : Word) (bs : List Byte) (s : State) : (storeBytes a bs s).ST = s.ST := rfl
@[simp] theorem storeBytes_mem (a : Word) (bs : List Byte) (s : State) :
    (storeBytes a bs s).mem = s.mem.writeRun s.params a bs := rfl
@[simp] theorem storeBytes_fault (a : Word) (bs : List Byte) (s : State) :
    (storeBytes a bs s).fault = s.fault := rfl
@[simp] theorem storeBytes_draw (a : Word) (bs : List Byte) (s : State) :
    (storeBytes a bs s).draw = s.draw := rfl
@[simp] theorem storeBytes_params (a : Word) (bs : List Byte) (s : State) :
    (storeBytes a bs s).params = s.params := rfl
@[simp] theorem storeBytes_config (a : Word) (bs : List Byte) (s : State) :
    (storeBytes a bs s).config = s.config := rfl
@[simp] theorem storeBytes_halted (a : Word) (bs : List Byte) (s : State) :
    (storeBytes a bs s).halted = s.halted := rfl
@[simp] theorem storeBytes_display (a : Word) (bs : List Byte) (s : State) :
    (storeBytes a bs s).display = s.display := rfl
@[simp] theorem storeBytes_input (a : Word) (bs : List Byte) (s : State) :
    (storeBytes a bs s).input = s.input := rfl
@[simp] theorem storeBytes_pending (a : Word) (bs : List Byte) (s : State) :
    (storeBytes a bs s).pending = s.pending := rfl
@[simp] theorem storeBytes_sampleNo (a : Word) (bs : List Byte) (s : State) :
    (storeBytes a bs s).sampleNo = s.sampleNo := rfl
@[simp] theorem storeBytes_insnAddr (a : Word) (bs : List Byte) (s : State) :
    (storeBytes a bs s).insnAddr = s.insnAddr := rfl
@[simp] theorem storeBytes_insnWord (a : Word) (bs : List Byte) (s : State) :
    (storeBytes a bs s).insnWord = s.insnWord := rfl
@[simp] theorem storeBytes_out (a : Word) (bs : List Byte) (s : State) :
    (storeBytes a bs s).out = s.out := rfl

/-! `loadRegs`. -/

@[simp] theorem loadRegs_V (x : Reg) (s : State) :
    (loadRegs x s).V = Vector.ofFn fun k : Reg => if k ≤ x then memRead s (effAddr s k) else s.V[k] := by unfold loadRegs; rfl
@[simp] theorem loadRegs_pc (x : Reg) (s : State) : (loadRegs x s).pc = s.pc := by unfold loadRegs; rfl
@[simp] theorem loadRegs_I (x : Reg) (s : State) : (loadRegs x s).I = s.I := by unfold loadRegs; rfl
@[simp] theorem loadRegs_stack (x : Reg) (s : State) :
    (loadRegs x s).stack = s.stack := by unfold loadRegs; rfl
@[simp] theorem loadRegs_sp (x : Reg) (s : State) : (loadRegs x s).sp = s.sp := by unfold loadRegs; rfl
@[simp] theorem loadRegs_DT (x : Reg) (s : State) : (loadRegs x s).DT = s.DT := by unfold loadRegs; rfl
@[simp] theorem loadRegs_ST (x : Reg) (s : State) : (loadRegs x s).ST = s.ST := by unfold loadRegs; rfl
@[simp] theorem loadRegs_mem (x : Reg) (s : State) : (loadRegs x s).mem = s.mem := by unfold loadRegs; rfl
@[simp] theorem loadRegs_fault (x : Reg) (s : State) :
    (loadRegs x s).fault = s.fault := by unfold loadRegs; rfl
@[simp] theorem loadRegs_draw (x : Reg) (s : State) : (loadRegs x s).draw = s.draw := by unfold loadRegs; rfl
@[simp] theorem loadRegs_params (x : Reg) (s : State) :
    (loadRegs x s).params = s.params := by unfold loadRegs; rfl
@[simp] theorem loadRegs_config (x : Reg) (s : State) :
    (loadRegs x s).config = s.config := by unfold loadRegs; rfl
@[simp] theorem loadRegs_halted (x : Reg) (s : State) :
    (loadRegs x s).halted = s.halted := by unfold loadRegs; rfl
@[simp] theorem loadRegs_display (x : Reg) (s : State) :
    (loadRegs x s).display = s.display := by unfold loadRegs; rfl
@[simp] theorem loadRegs_input (x : Reg) (s : State) :
    (loadRegs x s).input = s.input := by unfold loadRegs; rfl
@[simp] theorem loadRegs_pending (x : Reg) (s : State) :
    (loadRegs x s).pending = s.pending := by unfold loadRegs; rfl
@[simp] theorem loadRegs_sampleNo (x : Reg) (s : State) :
    (loadRegs x s).sampleNo = s.sampleNo := by unfold loadRegs; rfl
@[simp] theorem loadRegs_insnAddr (x : Reg) (s : State) :
    (loadRegs x s).insnAddr = s.insnAddr := by unfold loadRegs; rfl
@[simp] theorem loadRegs_insnWord (x : Reg) (s : State) :
    (loadRegs x s).insnWord = s.insnWord := by unfold loadRegs; rfl
@[simp] theorem loadRegs_out (x : Reg) (s : State) : (loadRegs x s).out = s.out := by unfold loadRegs; rfl

/-! `dispClear`. -/

@[simp] theorem dispClear_V (s : State) : (dispClear s).V = s.V := rfl
@[simp] theorem dispClear_pc (s : State) : (dispClear s).pc = s.pc := rfl
@[simp] theorem dispClear_I (s : State) : (dispClear s).I = s.I := rfl
@[simp] theorem dispClear_stack (s : State) : (dispClear s).stack = s.stack := rfl
@[simp] theorem dispClear_sp (s : State) : (dispClear s).sp = s.sp := rfl
@[simp] theorem dispClear_DT (s : State) : (dispClear s).DT = s.DT := rfl
@[simp] theorem dispClear_ST (s : State) : (dispClear s).ST = s.ST := rfl
@[simp] theorem dispClear_mem (s : State) : (dispClear s).mem = s.mem := rfl
@[simp] theorem dispClear_fault (s : State) : (dispClear s).fault = s.fault := rfl
@[simp] theorem dispClear_draw (s : State) : (dispClear s).draw = s.draw := rfl
@[simp] theorem dispClear_params (s : State) : (dispClear s).params = s.params := rfl
@[simp] theorem dispClear_config (s : State) : (dispClear s).config = s.config := rfl
@[simp] theorem dispClear_halted (s : State) : (dispClear s).halted = s.halted := rfl
@[simp] theorem dispClear_display (s : State) : (dispClear s).display = Plane.blank := rfl
@[simp] theorem dispClear_input (s : State) : (dispClear s).input = s.input := rfl
@[simp] theorem dispClear_pending (s : State) : (dispClear s).pending = s.pending := rfl
@[simp] theorem dispClear_sampleNo (s : State) : (dispClear s).sampleNo = s.sampleNo := rfl
@[simp] theorem dispClear_insnAddr (s : State) : (dispClear s).insnAddr = s.insnAddr := rfl
@[simp] theorem dispClear_insnWord (s : State) : (dispClear s).insnWord = s.insnWord := rfl
@[simp] theorem dispClear_out (s : State) :
    (dispClear s).out = { s.out with display := s.out.display ++ [.clear] } := rfl

/-! `dispToggle`. -/

@[simp] theorem dispToggle_V (ps : List (Nat × Nat)) (s : State) : (dispToggle ps s).V = s.V := rfl
@[simp] theorem dispToggle_pc (ps : List (Nat × Nat)) (s : State) : (dispToggle ps s).pc = s.pc := rfl
@[simp] theorem dispToggle_I (ps : List (Nat × Nat)) (s : State) : (dispToggle ps s).I = s.I := rfl
@[simp] theorem dispToggle_stack (ps : List (Nat × Nat)) (s : State) :
    (dispToggle ps s).stack = s.stack := rfl
@[simp] theorem dispToggle_sp (ps : List (Nat × Nat)) (s : State) : (dispToggle ps s).sp = s.sp := rfl
@[simp] theorem dispToggle_DT (ps : List (Nat × Nat)) (s : State) : (dispToggle ps s).DT = s.DT := rfl
@[simp] theorem dispToggle_ST (ps : List (Nat × Nat)) (s : State) : (dispToggle ps s).ST = s.ST := rfl
@[simp] theorem dispToggle_mem (ps : List (Nat × Nat)) (s : State) : (dispToggle ps s).mem = s.mem := rfl
@[simp] theorem dispToggle_fault (ps : List (Nat × Nat)) (s : State) :
    (dispToggle ps s).fault = s.fault := rfl
@[simp] theorem dispToggle_draw (ps : List (Nat × Nat)) (s : State) : (dispToggle ps s).draw = s.draw := rfl
@[simp] theorem dispToggle_params (ps : List (Nat × Nat)) (s : State) :
    (dispToggle ps s).params = s.params := rfl
@[simp] theorem dispToggle_config (ps : List (Nat × Nat)) (s : State) :
    (dispToggle ps s).config = s.config := rfl
@[simp] theorem dispToggle_halted (ps : List (Nat × Nat)) (s : State) :
    (dispToggle ps s).halted = s.halted := rfl
@[simp] theorem dispToggle_display (ps : List (Nat × Nat)) (s : State) :
    (dispToggle ps s).display = (s.display.toggleAll ps).1 := rfl
@[simp] theorem dispToggle_input (ps : List (Nat × Nat)) (s : State) :
    (dispToggle ps s).input = s.input := rfl
@[simp] theorem dispToggle_pending (ps : List (Nat × Nat)) (s : State) :
    (dispToggle ps s).pending = s.pending := rfl
@[simp] theorem dispToggle_sampleNo (ps : List (Nat × Nat)) (s : State) :
    (dispToggle ps s).sampleNo = s.sampleNo := rfl
@[simp] theorem dispToggle_insnAddr (ps : List (Nat × Nat)) (s : State) :
    (dispToggle ps s).insnAddr = s.insnAddr := rfl
@[simp] theorem dispToggle_insnWord (ps : List (Nat × Nat)) (s : State) :
    (dispToggle ps s).insnWord = s.insnWord := rfl
@[simp] theorem dispToggle_out (ps : List (Nat × Nat)) (s : State) :
    (dispToggle ps s).out = { s.out with display := s.out.display ++ ps.map fun q => .togglePixel q.1 q.2 } := rfl

/-! `markDraw`. -/

@[simp] theorem markDraw_V (s : State) : (markDraw s).V = s.V := rfl
@[simp] theorem markDraw_pc (s : State) : (markDraw s).pc = s.pc := rfl
@[simp] theorem markDraw_I (s : State) : (markDraw s).I = s.I := rfl
@[simp] theorem markDraw_stack (s : State) : (markDraw s).stack = s.stack := rfl
@[simp] theorem markDraw_sp (s : State) : (markDraw s).sp = s.sp := rfl
@[simp] theorem markDraw_DT (s : State) : (markDraw s).DT = s.DT := rfl
@[simp] theorem markDraw_ST (s : State) : (markDraw s).ST = s.ST := rfl
@[simp] theorem markDraw_mem (s : State) : (markDraw s).mem = s.mem := rfl
@[simp] theorem markDraw_fault (s : State) : (markDraw s).fault = s.fault := rfl
@[simp] theorem markDraw_draw (s : State) : (markDraw s).draw = true := rfl
@[simp] theorem markDraw_params (s : State) : (markDraw s).params = s.params := rfl
@[simp] theorem markDraw_config (s : State) : (markDraw s).config = s.config := rfl
@[simp] theorem markDraw_halted (s : State) : (markDraw s).halted = s.halted := rfl
@[simp] theorem markDraw_display (s : State) : (markDraw s).display = s.display := rfl
@[simp] theorem markDraw_input (s : State) : (markDraw s).input = s.input := rfl
@[simp] theorem markDraw_pending (s : State) : (markDraw s).pending = s.pending := rfl
@[simp] theorem markDraw_sampleNo (s : State) : (markDraw s).sampleNo = s.sampleNo := rfl
@[simp] theorem markDraw_insnAddr (s : State) : (markDraw s).insnAddr = s.insnAddr := rfl
@[simp] theorem markDraw_insnWord (s : State) : (markDraw s).insnWord = s.insnWord := rfl
@[simp] theorem markDraw_out (s : State) : (markDraw s).out = s.out := rfl

/-! `raiseFault`. -/

@[simp] theorem raiseFault_V (c : FaultCode) (s : State) : (raiseFault c s).V = s.V := rfl
@[simp] theorem raiseFault_pc (c : FaultCode) (s : State) : (raiseFault c s).pc = s.insnAddr := rfl
@[simp] theorem raiseFault_I (c : FaultCode) (s : State) : (raiseFault c s).I = s.I := rfl
@[simp] theorem raiseFault_stack (c : FaultCode) (s : State) : (raiseFault c s).stack = s.stack := rfl
@[simp] theorem raiseFault_sp (c : FaultCode) (s : State) : (raiseFault c s).sp = s.sp := rfl
@[simp] theorem raiseFault_DT (c : FaultCode) (s : State) : (raiseFault c s).DT = s.DT := rfl
@[simp] theorem raiseFault_ST (c : FaultCode) (s : State) : (raiseFault c s).ST = s.ST := rfl
@[simp] theorem raiseFault_mem (c : FaultCode) (s : State) : (raiseFault c s).mem = s.mem := rfl
@[simp] theorem raiseFault_fault (c : FaultCode) (s : State) :
    (raiseFault c s).fault = some ⟨c, s.insnAddr, s.insnWord⟩ := rfl
@[simp] theorem raiseFault_draw (c : FaultCode) (s : State) : (raiseFault c s).draw = s.draw := rfl
@[simp] theorem raiseFault_params (c : FaultCode) (s : State) : (raiseFault c s).params = s.params := rfl
@[simp] theorem raiseFault_config (c : FaultCode) (s : State) : (raiseFault c s).config = s.config := rfl
@[simp] theorem raiseFault_halted (c : FaultCode) (s : State) : (raiseFault c s).halted = s.halted := rfl
@[simp] theorem raiseFault_display (c : FaultCode) (s : State) : (raiseFault c s).display = s.display := rfl
@[simp] theorem raiseFault_input (c : FaultCode) (s : State) : (raiseFault c s).input = s.input := rfl
@[simp] theorem raiseFault_pending (c : FaultCode) (s : State) : (raiseFault c s).pending = s.pending := rfl
@[simp] theorem raiseFault_sampleNo (c : FaultCode) (s : State) :
    (raiseFault c s).sampleNo = s.sampleNo := rfl
@[simp] theorem raiseFault_insnAddr (c : FaultCode) (s : State) :
    (raiseFault c s).insnAddr = s.insnAddr := rfl
@[simp] theorem raiseFault_insnWord (c : FaultCode) (s : State) :
    (raiseFault c s).insnWord = s.insnWord := rfl
@[simp] theorem raiseFault_out (c : FaultCode) (s : State) :
    (raiseFault c s).out = { s.out with fault := some ⟨c, s.insnAddr, s.insnWord⟩ } := rfl

end Sys2Proof.Machine
end

