-- ==== Sys2Proof/Laws/Ops.lean ====
section
/-! SUPPORT. One lemma per shared operation, for proofs to cite instead of unfolding it. -/

namespace Sys2Proof.Machine

/-- A value already at its width stays as it is (00_scope R8). -/
@[simp] theorem zext_self {w : Nat} (a : BitVec w) : zext a = a := BitVec.setWidth_eq a

/-- The effective address at this hardware's widths (43_index_memory R186). -/
theorem effAddr_eq (s : State) (k : Nat) : effAddr s k = s.I + BitVec.ofNat 16 k := rfl

/-- The fetch at this hardware's widths (20_memory R52). -/
theorem fetchWord_eq (s : State) : fetchWord s = memRead s s.pc ++ memRead s (s.pc + 1) := rfl

/-- The registers a block store moves, as they stand (43_index_memory R184). -/
theorem regsUpTo_eq (s : State) (x : Reg) : regsUpTo s x = s.V.toList.take (x.val + 1) :=
  (List.map_congr_left fun a _ => zext_self a).trans (List.map_id _)

/-- With parameters that fit together, masking an address is reduction modulo MEM_SIZE (20_memory R51). -/
theorem decodeAddr_eq {p : Parameters} (hp : p.Wf) (a : Word) : decodeAddr p a = a.toNat % p.memSize := by
  obtain ⟨k, -, hk⟩ := (Nat.dvd_prime_pow Nat.prime_two).1 hp.divides
  have hm : p.addrMask.toNat = 2 ^ k - 1 := by have := hp.mask; omega
  rw [decodeAddr, BitVec.toNat_and, hm, Nat.and_two_pow_sub_one_eq_mod, hk]

/-- A masked address is below MEM_SIZE (20_memory R51). -/
theorem decodeAddr_lt {p : Parameters} (hp : p.Wf) (a : Word) : decodeAddr p a < p.memSize := by
  rw [decodeAddr_eq hp]; exact Nat.mod_lt _ (by have := hp.mask; omega)

/-- A masked value of `pc` is below MEM_SIZE (10_state R22). -/
theorem masked_lt {p : Parameters} (hp : p.Wf) (t : Word) : (t &&& p.addrMask).toNat < p.memSize :=
  decodeAddr_lt hp t

/-- The mask leaves a value below MEM_SIZE as it is (10_state R22). -/
theorem masked_of_lt {p : Parameters} (hp : p.Wf) {t : Word} (h : t.toNat < p.memSize) :
    t &&& p.addrMask = t :=
  BitVec.eq_of_toNat_eq ((decodeAddr_eq hp t).trans (Nat.mod_eq_of_lt h))

/-- The address of the `k`-th byte of a run, modulo MEM_SIZE (20_memory R51). -/
theorem decodeAddr_add {p : Parameters} (hp : p.Wf) (a : Word) (k : Nat) :
    decodeAddr p (a + BitVec.ofNat 16 k) = (a.toNat + k) % p.memSize := by
  rw [decodeAddr_eq hp, BitVec.toNat_add, BitVec.toNat_ofNat, Nat.mod_mod_of_dvd _ hp.divides, Nat.add_mod,
    Nat.mod_mod_of_dvd _ hp.divides, ← Nat.add_mod]

/-- Bytes of a run that are less than MEM_SIZE apart stand at different addresses. -/
theorem decodeAddr_add_inj {p : Parameters} (hp : p.Wf) (a : Word) {j k : Nat} (hj : j < p.memSize)
    (hk : k < p.memSize) (h : decodeAddr p (a + BitVec.ofNat 16 j) = decodeAddr p (a + BitVec.ofNat 16 k)) :
    j = k := by
  rw [decodeAddr_add hp, decodeAddr_add hp] at h
  exact Nat.ModEq.eq_of_lt_of_lt (Nat.ModEq.add_left_cancel' _ h) hj hk

theorem add_one_add_ofNat (a : Word) (k : Nat) : a + 1 + BitVec.ofNat 16 k = a + BitVec.ofNat 16 (k + 1) := by
  apply BitVec.eq_of_toNat_eq
  simp only [BitVec.toNat_add, BitVec.toNat_ofNat, show (1 : Word).toNat = 1 from rfl]
  omega

/-- A byte's read after a byte's write (20_memory R51, R56). -/
theorem Memory.lookup_write (m : Memory) (p : Parameters) (a : Word) (v : Byte) (b : Nat) :
    (m.write p a v).lookup p b = if decodeAddr p a = b then v else m.lookup p b :=
  Memory.lookup_store m p (decodeAddr p a) b v

/-- A write through the decoder keeps the canonical form. -/
theorem Memory.wf_write (m : Memory) (p : Parameters) (hp : p.Wf) (a : Word) (v : Byte) (h : m.wf p) :
    (m.write p a v).wf p :=
  Memory.wf_store m p _ v (decodeAddr_lt hp a) h

/-- A run of writes keeps the canonical form. -/
theorem Memory.wf_writeRun (m : Memory) (p : Parameters) (hp : p.Wf) (a : Word) (bs : List Byte)
    (h : m.wf p) : (m.writeRun p a bs).wf p := by
  induction bs generalizing a m with
  | nil => exact h
  | cons b rest ih => exact ih _ _ (Memory.wf_write m p hp a b h)

/-- A run of writes leaves every address outside the run. -/
theorem Memory.lookup_writeRun_other (m : Memory) (p : Parameters) (a : Word) (bs : List Byte) (b : Nat)
    (h : ∀ k, k < bs.length → b ≠ decodeAddr p (a + BitVec.ofNat 16 k)) :
    (m.writeRun p a bs).lookup p b = m.lookup p b := by
  induction bs generalizing a m with
  | nil => rfl
  | cons v rest ih =>
    have h0 : b ≠ decodeAddr p a := by simpa using h 0 (by simp)
    rw [Memory.writeRun, ih, Memory.lookup_write, if_neg (Ne.symm h0)]
    intro k hk
    rw [add_one_add_ofNat]
    exact h (k + 1) (by simpa using hk)

/-- A run of writes no longer than memory leaves each byte at its address. -/
theorem Memory.lookup_writeRun_at (m : Memory) (p : Parameters) (hp : p.Wf) (a : Word) (bs : List Byte)
    (hlen : bs.length ≤ p.memSize) (k : Nat) (hk : k < bs.length) :
    (m.writeRun p a bs).lookup p (decodeAddr p (a + BitVec.ofNat 16 k)) = bs[k] := by
  induction bs generalizing a m k with
  | nil => simp at hk
  | cons v rest ih =>
    simp only [List.length_cons] at hlen hk
    cases k with
    | zero =>
      rw [Memory.writeRun, Memory.lookup_writeRun_other]
      · simp [Memory.lookup_write]
      · intro j hj he
        rw [add_one_add_ofNat] at he
        exact absurd (decodeAddr_add_inj hp a (by omega) (by omega) he) (by omega)
    | succ k =>
      rw [Memory.writeRun, ← add_one_add_ofNat]
      simpa using ih (m.write p a v) (a + 1) (by omega) k (by omega)

/-- Two starting addresses that decode alike give bytes that decode alike (10_state R24). -/
theorem decodeAddr_add_congr {p : Parameters} (hp : p.Wf) {a b : Word} (h : decodeAddr p a = decodeAddr p b)
    (k : Nat) : decodeAddr p (a + BitVec.ofNat 16 k) = decodeAddr p (b + BitVec.ofNat 16 k) := by
  rw [decodeAddr_eq hp, decodeAddr_eq hp] at h
  rw [decodeAddr_add hp, decodeAddr_add hp, Nat.add_mod, h, ← Nat.add_mod]

/-- Two starting addresses that decode alike give the same run of writes (10_state R24). -/
theorem Memory.writeRun_congr (m : Memory) (p : Parameters) (hp : p.Wf) {a b : Word}
    (h : decodeAddr p a = decodeAddr p b) (bs : List Byte) : m.writeRun p a bs = m.writeRun p b bs := by
  induction bs generalizing a b m with
  | nil => rfl
  | cons v rest ih =>
    rw [Memory.writeRun, Memory.writeRun, Memory.write, Memory.write, h]
    exact ih _ (decodeAddr_add_congr hp h 1)

/-- A register file after one write. -/
theorem getElem_set_reg (V : Vector Byte 16) (x r : Reg) (v : Byte) :
    (V.set x v)[r] = if r = x then v else V[r] := by
  simp only [Fin.getElem_fin, Vector.getElem_set, Fin.ext_iff, eq_comm]

/-- The stack after one write. -/
theorem getElem_set_stack (S : Vector Word 16) (j k : Fin 16) (v : Word) :
    (S.set j v)[k] = if k = j then v else S[k] := by
  simp only [Fin.getElem_fin, Vector.getElem_set, Fin.ext_iff, eq_comm]

/-- The last entry of this hardware's stack (10_state R26). -/
@[simp] theorem topEntry_eq : (topEntry 16 : Nibble) = 15 := rfl

/-- A stack entry's read at this hardware's widths (10_state R25). -/
theorem readStack_eq (s : State) (j : Nibble) : readStack s j = s.stack[j.toFin] :=
  congrArg (s.stack[·]) (stackIndex j)

/-- A flag write changes the register file alone. -/
theorem writeFlag_frame (f : Bool) (s : State) : writeFlag f s = { s with V := (writeFlag f s).V } := rfl

/-- A result and a flag change the register file alone. -/
theorem writeResultAndFlag_frame (x : Reg) (v : Byte) (f : Bool) (s : State) :
    writeResultAndFlag x v f s = { s with V := (writeResultAndFlag x v f s).V } := rfl

/-- The post-advance changes `I` alone (43_index_memory R186). -/
theorem advanceI_frame (x : Reg) (s : State) : advanceI x s = { s with I := (advanceI x s).I } := rfl

/-- The flag register after a flag write. -/
theorem writeFlag_VF (f : Bool) (s : State) : (writeFlag f s).V[s.params.flagReg] = flagByte f := by
  simp only [writeFlag, writeReg_V, getElem_set_reg, if_true]

/-- What a result and a flag leave in each register: the flag wins in the flag register (10_state R21). -/
theorem writeResultAndFlag_getElem (x r : Reg) (v : Byte) (f : Bool) (s : State) :
    (writeResultAndFlag x v f s).V[r] = if r = s.params.flagReg then flagByte f else if r = x then v else s.V[r] := by
  simp only [writeResultAndFlag, writeFlag, writeReg_V, writeReg_params, getElem_set_reg]

/-- A taken skip adds 2 to `pc` (41_control_flow R130). -/
@[simp] theorem skipIf_true_pc (s : State) : (skipIf true s).pc = (s.pc + 2) &&& s.params.addrMask := rfl

/-- A skip not taken changes nothing (41_control_flow R130). -/
@[simp] theorem skipIf_false (s : State) : skipIf false s = s := rfl

/-- A skip changes `pc` alone. -/
theorem skipIf_frame (c : Bool) (s : State) : skipIf c s = { s with pc := (skipIf c s).pc } := by
  cases c <;> rfl

/-- The key comparison (44_display_input_timers R202). -/
theorem keyEquals_iff (s : State) (v : Byte) :
    keyEquals s v = true ↔ s.input.key = some v := by
  unfold keyEquals
  cases s.input.key <;> simp

/-- A masked key code fits KEY_WIDTH bits (40_execution_cycle R115). -/
theorem keyMask_lt (p : Parameters) (k : Byte) : (k &&& keyMask p).toNat < 2 ^ p.keyWidth := by
  have h1 : (k &&& keyMask p).toNat ≤ (keyMask p).toNat := by
    rw [BitVec.toNat_and]; exact Nat.and_le_right
  have h2 : (keyMask p).toNat ≤ 2 ^ p.keyWidth - 1 := by
    rw [keyMask, BitVec.toNat_ofNat]; exact Nat.mod_le _ _
  have := Nat.two_pow_pos p.keyWidth
  omega

/-- The key code of a coming tick fits KEY_WIDTH bits (40_execution_cycle R115). -/
theorem nextInput_key_lt (s : State) (k : Byte) (h : (nextInput s).key = some k) :
    k.toNat < 2 ^ s.params.keyWidth := by
  simp only [nextInput, Option.map_eq_some_iff] at h
  obtain ⟨j, _, rfl⟩ := h
  exact keyMask_lt s.params j

/-- A timer's decrement (10_state R27). -/
theorem countDown_toNat {w : Nat} (v : BitVec w) : (countDown v).toNat = v.toNat - 1 := by
  unfold countDown
  split_ifs with h
  · simp [h]
  · have h0 : v.toNat ≠ 0 := fun h' => h (BitVec.eq_of_toNat_eq (by simpa using h'))
    have hw : 1 < 2 ^ w := by have := v.isLt; omega
    have h1 : (1 : BitVec w).toNat = 1 := by
      rw [show (1 : BitVec w) = BitVec.ofNat w 1 from rfl, BitVec.toNat_ofNat, Nat.mod_eq_of_lt hw]
    rw [BitVec.toNat_sub_of_le] <;> simp only [h1, BitVec.le_def] <;> omega

end Sys2Proof.Machine
end

