-- ==== Sys2Proof/Laws/PerInstr.lean ====
section
/-! SUPPORT. The per-instruction family `Template`: the word the encoder writes matches the catalog entry of
the instruction's own pattern, and that entry reads back every field (30_encoding R72 to R76, R79). Which
entry the disassembler selects is not said here. -/

namespace Sys2Proof.Laws.Template

/-- The encoded word matches its own template, whose fields read back the instruction. -/
def Statement (i : Instr) : Prop :=
  ∃ pt ∈ templatesLow ++ templatesHigh, pt.1 = i.pattern ∧
    (Entry.ofTemplate pt.1 pt.2).matchesWord (encode i) = true ∧
    (Entry.ofTemplate pt.1 pt.2).read (encode i) = i

theorem of_word4 {i : Instr} (pt : Pattern × Template) (h : pt ∈ templatesLow ++ templatesHigh)
    (hp : pt.1 = i.pattern) (a b c d : Nibble) (he : encode i = word4 a b c d)
    (ht : pt.2.test a b c d = true) (hr : (Entry.ofTemplate pt.1 pt.2).read (word4 a b c d) = i) :
    Statement i :=
  ⟨pt, h, hp, by rw [he, matchesWord_word4 pt h, ht], by rw [he, hr]⟩

theorem field_x (l : Nibble) (x : Reg) (c d : Nibble) :
    regOfField ((⟨0x0F00, 8⟩ : Field).read (word4 l (regBits x) c d)) = x := by
  rw [read_X, reg_regBits]

theorem field_y (l b : Nibble) (y : Reg) (d : Nibble) :
    regOfField ((⟨0x00F0, 4⟩ : Field).read (word4 l b (regBits y) d)) = y := by
  rw [read_Y, reg_regBits]

theorem field_nnn (l : Nibble) (n : Addr) : ((⟨0x0FFF, 0⟩ : Field).read
    (word4 l (n.extractLsb' 8 4) (n.extractLsb' 4 4) (n.extractLsb' 0 4))).setWidth 12 = n := by
  rw [(read_N _ _ _ _).2.2, setWidth_nnn]

theorem field_nn (l x : Nibble) (n : Byte) : ((⟨0x00FF, 0⟩ : Field).read
    (word4 l x (n.extractLsb' 4 4) (n.extractLsb' 0 4))).setWidth 8 = n := by
  rw [(read_N _ _ _ _).2.1, setWidth_nn]

theorem field_n (l x y n : Nibble) : ((⟨0x000F, 0⟩ : Field).read (word4 l x y n)).setWidth 4 = n := by
  rw [(read_N _ _ _ _).1, setWidth_n]

theorem sys (nnn : Addr) : Statement (.sys nnn) := by
  refine of_word4 (.sys, ⟨.lit 0x0, .N, .N, .N⟩) (by decide) rfl
    0x0 (nnn.extractLsb' 8 4) (nnn.extractLsb' 4 4) (nnn.extractLsb' 0 4) ?_ ?_ ?_
  · exact nnn_word4 _ nnn
  · rfl
  · exact congrArg Instr.sys (field_nnn _ nnn)

theorem cls : Statement .cls := by
  refine of_word4 (.cls, ⟨.lit 0x0, .lit 0x0, .lit 0xE, .lit 0x0⟩) (by decide) rfl 0x0 0x0 0xE 0x0 ?_ ?_ ?_
  · exact rfl
  · rfl
  · exact rfl

theorem ret : Statement .ret := by
  refine of_word4 (.ret, ⟨.lit 0x0, .lit 0x0, .lit 0xE, .lit 0xE⟩) (by decide) rfl 0x0 0x0 0xE 0xE ?_ ?_ ?_
  · exact rfl
  · rfl
  · exact rfl

theorem jp (nnn : Addr) : Statement (.jp nnn) := by
  refine of_word4 (.jp, ⟨.lit 0x1, .N, .N, .N⟩) (by decide) rfl
    0x1 (nnn.extractLsb' 8 4) (nnn.extractLsb' 4 4) (nnn.extractLsb' 0 4) ?_ ?_ ?_
  · exact nnn_word4 _ nnn
  · rfl
  · exact congrArg Instr.jp (field_nnn _ nnn)

theorem call (nnn : Addr) : Statement (.call nnn) := by
  refine of_word4 (.call, ⟨.lit 0x2, .N, .N, .N⟩) (by decide) rfl
    0x2 (nnn.extractLsb' 8 4) (nnn.extractLsb' 4 4) (nnn.extractLsb' 0 4) ?_ ?_ ?_
  · exact nnn_word4 _ nnn
  · rfl
  · exact congrArg Instr.call (field_nnn _ nnn)

theorem seImm (x : Reg) (nn : Byte) : Statement (.seImm x nn) := by
  refine of_word4 (.seImm, ⟨.lit 0x3, .X, .N, .N⟩) (by decide) rfl
    0x3 (regBits x) (nn.extractLsb' 4 4) (nn.extractLsb' 0 4) ?_ ?_ ?_
  · exact xnn_word4 _ (regBits x) nn
  · rfl
  · exact congrArg₂ Instr.seImm (field_x _ x _ _) (field_nn _ _ nn)

theorem sneImm (x : Reg) (nn : Byte) : Statement (.sneImm x nn) := by
  refine of_word4 (.sneImm, ⟨.lit 0x4, .X, .N, .N⟩) (by decide) rfl
    0x4 (regBits x) (nn.extractLsb' 4 4) (nn.extractLsb' 0 4) ?_ ?_ ?_
  · exact xnn_word4 _ (regBits x) nn
  · rfl
  · exact congrArg₂ Instr.sneImm (field_x _ x _ _) (field_nn _ _ nn)

theorem seReg (x y : Reg) : Statement (.seReg x y) := by
  refine of_word4 (.seReg, ⟨.lit 0x5, .X, .Y, .lit 0x0⟩) (by decide) rfl 0x5 (regBits x) (regBits y) 0x0 ?_ ?_ ?_
  · exact rfl
  · rfl
  · exact congrArg₂ Instr.seReg (field_x _ x _ _) (field_y _ _ y _)

theorem ldImm (x : Reg) (nn : Byte) : Statement (.ldImm x nn) := by
  refine of_word4 (.ldImm, ⟨.lit 0x6, .X, .N, .N⟩) (by decide) rfl
    0x6 (regBits x) (nn.extractLsb' 4 4) (nn.extractLsb' 0 4) ?_ ?_ ?_
  · exact xnn_word4 _ (regBits x) nn
  · rfl
  · exact congrArg₂ Instr.ldImm (field_x _ x _ _) (field_nn _ _ nn)

theorem addImm (x : Reg) (nn : Byte) : Statement (.addImm x nn) := by
  refine of_word4 (.addImm, ⟨.lit 0x7, .X, .N, .N⟩) (by decide) rfl
    0x7 (regBits x) (nn.extractLsb' 4 4) (nn.extractLsb' 0 4) ?_ ?_ ?_
  · exact xnn_word4 _ (regBits x) nn
  · rfl
  · exact congrArg₂ Instr.addImm (field_x _ x _ _) (field_nn _ _ nn)

theorem ldReg (x y : Reg) : Statement (.ldReg x y) := by
  refine of_word4 (.ldReg, ⟨.lit 0x8, .X, .Y, .lit 0x0⟩) (by decide) rfl 0x8 (regBits x) (regBits y) 0x0 ?_ ?_ ?_
  · exact rfl
  · rfl
  · exact congrArg₂ Instr.ldReg (field_x _ x _ _) (field_y _ _ y _)

theorem or (x y : Reg) : Statement (.or x y) := by
  refine of_word4 (.or, ⟨.lit 0x8, .X, .Y, .lit 0x1⟩) (by decide) rfl 0x8 (regBits x) (regBits y) 0x1 ?_ ?_ ?_
  · exact rfl
  · rfl
  · exact congrArg₂ Instr.or (field_x _ x _ _) (field_y _ _ y _)

theorem and (x y : Reg) : Statement (.and x y) := by
  refine of_word4 (.and, ⟨.lit 0x8, .X, .Y, .lit 0x2⟩) (by decide) rfl 0x8 (regBits x) (regBits y) 0x2 ?_ ?_ ?_
  · exact rfl
  · rfl
  · exact congrArg₂ Instr.and (field_x _ x _ _) (field_y _ _ y _)

theorem xor (x y : Reg) : Statement (.xor x y) := by
  refine of_word4 (.xor, ⟨.lit 0x8, .X, .Y, .lit 0x3⟩) (by decide) rfl 0x8 (regBits x) (regBits y) 0x3 ?_ ?_ ?_
  · exact rfl
  · rfl
  · exact congrArg₂ Instr.xor (field_x _ x _ _) (field_y _ _ y _)

theorem addReg (x y : Reg) : Statement (.addReg x y) := by
  refine of_word4 (.addReg, ⟨.lit 0x8, .X, .Y, .lit 0x4⟩) (by decide) rfl 0x8 (regBits x) (regBits y) 0x4 ?_ ?_ ?_
  · exact rfl
  · rfl
  · exact congrArg₂ Instr.addReg (field_x _ x _ _) (field_y _ _ y _)

theorem sub (x y : Reg) : Statement (.sub x y) := by
  refine of_word4 (.sub, ⟨.lit 0x8, .X, .Y, .lit 0x5⟩) (by decide) rfl 0x8 (regBits x) (regBits y) 0x5 ?_ ?_ ?_
  · exact rfl
  · rfl
  · exact congrArg₂ Instr.sub (field_x _ x _ _) (field_y _ _ y _)

theorem shr (x y : Reg) : Statement (.shr x y) := by
  refine of_word4 (.shr, ⟨.lit 0x8, .X, .Y, .lit 0x6⟩) (by decide) rfl 0x8 (regBits x) (regBits y) 0x6 ?_ ?_ ?_
  · exact rfl
  · rfl
  · exact congrArg₂ Instr.shr (field_x _ x _ _) (field_y _ _ y _)

theorem subn (x y : Reg) : Statement (.subn x y) := by
  refine of_word4 (.subn, ⟨.lit 0x8, .X, .Y, .lit 0x7⟩) (by decide) rfl 0x8 (regBits x) (regBits y) 0x7 ?_ ?_ ?_
  · exact rfl
  · rfl
  · exact congrArg₂ Instr.subn (field_x _ x _ _) (field_y _ _ y _)

theorem shl (x y : Reg) : Statement (.shl x y) := by
  refine of_word4 (.shl, ⟨.lit 0x8, .X, .Y, .lit 0xE⟩) (by decide) rfl 0x8 (regBits x) (regBits y) 0xE ?_ ?_ ?_
  · exact rfl
  · rfl
  · exact congrArg₂ Instr.shl (field_x _ x _ _) (field_y _ _ y _)

theorem sneReg (x y : Reg) : Statement (.sneReg x y) := by
  refine of_word4 (.sneReg, ⟨.lit 0x9, .X, .Y, .lit 0x0⟩) (by decide) rfl 0x9 (regBits x) (regBits y) 0x0 ?_ ?_ ?_
  · exact rfl
  · rfl
  · exact congrArg₂ Instr.sneReg (field_x _ x _ _) (field_y _ _ y _)

theorem ldI (nnn : Addr) : Statement (.ldI nnn) := by
  refine of_word4 (.ldI, ⟨.lit 0xA, .N, .N, .N⟩) (by decide) rfl
    0xA (nnn.extractLsb' 8 4) (nnn.extractLsb' 4 4) (nnn.extractLsb' 0 4) ?_ ?_ ?_
  · exact nnn_word4 _ nnn
  · rfl
  · exact congrArg Instr.ldI (field_nnn _ nnn)

theorem jpV0 (nnn : Addr) : Statement (.jpV0 nnn) := by
  refine of_word4 (.jpV0, ⟨.lit 0xB, .N, .N, .N⟩) (by decide) rfl
    0xB (nnn.extractLsb' 8 4) (nnn.extractLsb' 4 4) (nnn.extractLsb' 0 4) ?_ ?_ ?_
  · exact nnn_word4 _ nnn
  · rfl
  · exact congrArg Instr.jpV0 (field_nnn _ nnn)

theorem rnd (x : Reg) (nn : Byte) : Statement (.rnd x nn) := by
  refine of_word4 (.rnd, ⟨.lit 0xC, .X, .N, .N⟩) (by decide) rfl
    0xC (regBits x) (nn.extractLsb' 4 4) (nn.extractLsb' 0 4) ?_ ?_ ?_
  · exact xnn_word4 _ (regBits x) nn
  · rfl
  · exact congrArg₂ Instr.rnd (field_x _ x _ _) (field_nn _ _ nn)

theorem drw (x y : Reg) (n : Nibble) : Statement (.drw x y n) := by
  refine of_word4 (.drw, ⟨.lit 0xD, .X, .Y, .N⟩) (by decide) rfl 0xD (regBits x) (regBits y) n ?_ ?_ ?_
  · exact rfl
  · rfl
  · exact congr (congrArg₂ Instr.drw (field_x _ x _ _) (field_y _ _ y _)) (field_n _ _ _ n)

theorem skp (x : Reg) : Statement (.skp x) := by
  refine of_word4 (.skp, ⟨.lit 0xE, .X, .lit 0x9, .lit 0xE⟩) (by decide) rfl 0xE (regBits x) 0x9 0xE ?_ ?_ ?_
  · exact rfl
  · rfl
  · exact congrArg Instr.skp (field_x _ x _ _)

theorem sknp (x : Reg) : Statement (.sknp x) := by
  refine of_word4 (.sknp, ⟨.lit 0xE, .X, .lit 0xA, .lit 0x1⟩) (by decide) rfl 0xE (regBits x) 0xA 0x1 ?_ ?_ ?_
  · exact rfl
  · rfl
  · exact congrArg Instr.sknp (field_x _ x _ _)

theorem ldVxDt (x : Reg) : Statement (.ldVxDt x) := by
  refine of_word4 (.ldVxDt, ⟨.lit 0xF, .X, .lit 0x0, .lit 0x7⟩) (by decide) rfl 0xF (regBits x) 0x0 0x7 ?_ ?_ ?_
  · exact rfl
  · rfl
  · exact congrArg Instr.ldVxDt (field_x _ x _ _)

theorem ldVxK (x : Reg) : Statement (.ldVxK x) := by
  refine of_word4 (.ldVxK, ⟨.lit 0xF, .X, .lit 0x0, .lit 0xA⟩) (by decide) rfl 0xF (regBits x) 0x0 0xA ?_ ?_ ?_
  · exact rfl
  · rfl
  · exact congrArg Instr.ldVxK (field_x _ x _ _)

theorem ldDtVx (x : Reg) : Statement (.ldDtVx x) := by
  refine of_word4 (.ldDtVx, ⟨.lit 0xF, .X, .lit 0x1, .lit 0x5⟩) (by decide) rfl 0xF (regBits x) 0x1 0x5 ?_ ?_ ?_
  · exact rfl
  · rfl
  · exact congrArg Instr.ldDtVx (field_x _ x _ _)

theorem ldStVx (x : Reg) : Statement (.ldStVx x) := by
  refine of_word4 (.ldStVx, ⟨.lit 0xF, .X, .lit 0x1, .lit 0x8⟩) (by decide) rfl 0xF (regBits x) 0x1 0x8 ?_ ?_ ?_
  · exact rfl
  · rfl
  · exact congrArg Instr.ldStVx (field_x _ x _ _)

theorem addIVx (x : Reg) : Statement (.addIVx x) := by
  refine of_word4 (.addIVx, ⟨.lit 0xF, .X, .lit 0x1, .lit 0xE⟩) (by decide) rfl 0xF (regBits x) 0x1 0xE ?_ ?_ ?_
  · exact rfl
  · rfl
  · exact congrArg Instr.addIVx (field_x _ x _ _)

theorem ldFVx (x : Reg) : Statement (.ldFVx x) := by
  refine of_word4 (.ldFVx, ⟨.lit 0xF, .X, .lit 0x2, .lit 0x9⟩) (by decide) rfl 0xF (regBits x) 0x2 0x9 ?_ ?_ ?_
  · exact rfl
  · rfl
  · exact congrArg Instr.ldFVx (field_x _ x _ _)

theorem ldBVx (x : Reg) : Statement (.ldBVx x) := by
  refine of_word4 (.ldBVx, ⟨.lit 0xF, .X, .lit 0x3, .lit 0x3⟩) (by decide) rfl 0xF (regBits x) 0x3 0x3 ?_ ?_ ?_
  · exact rfl
  · rfl
  · exact congrArg Instr.ldBVx (field_x _ x _ _)

theorem ldMemVx (x : Reg) : Statement (.ldMemVx x) := by
  refine of_word4 (.ldMemVx, ⟨.lit 0xF, .X, .lit 0x5, .lit 0x5⟩) (by decide) rfl 0xF (regBits x) 0x5 0x5 ?_ ?_ ?_
  · exact rfl
  · rfl
  · exact congrArg Instr.ldMemVx (field_x _ x _ _)

theorem ldVxMem (x : Reg) : Statement (.ldVxMem x) := by
  refine of_word4 (.ldVxMem, ⟨.lit 0xF, .X, .lit 0x6, .lit 0x5⟩) (by decide) rfl 0xF (regBits x) 0x6 0x5 ?_ ?_ ?_
  · exact rfl
  · rfl
  · exact congrArg Instr.ldVxMem (field_x _ x _ _)

end Sys2Proof.Laws.Template
end

