-- ==== Sys2Proof/Laws/Step.lean ====
section
/-! SUPPORT. What `exec` and `step` can do, said once. -/

namespace Sys2Proof.Machine

/-- Every meaning answers a next state. -/
theorem exec_next (i : Instr) (s : State) : ∃ t, exec i s = .next t := by
  cases i with
  | ret => rw [exec, execRet]; split_ifs <;> exact ⟨_, rfl⟩
  | call n => rw [exec, execCall]; split_ifs <;> exact ⟨_, rfl⟩
  | _ => exact ⟨_, rfl⟩

/-- What no instruction writes: the parameters, the configuration, the halted flag, the input samples, the instruction in
progress, and the outputs of the other steps. -/
structure ExecKeeps (s t : State) : Prop where
  params   : t.params = s.params
  config   : t.config = s.config
  halted   : t.halted = s.halted
  input    : t.input = s.input
  pending  : t.pending = s.pending
  sampleNo : t.sampleNo = s.sampleNo
  insnAddr : t.insnAddr = s.insnAddr
  insnWord : t.insnWord = s.insnWord
  obs      : t.out.obs = s.out.obs
  beep     : t.out.beep = s.out.beep
  frame    : t.out.frameComplete = s.out.frameComplete

/-- Every meaning leaves what `ExecKeeps` lists. -/
theorem exec_keeps {i : Instr} {s t : State} (h : exec i s = .next t) : ExecKeeps s t := by
  cases i with
  | ret => rw [exec, execRet] at h; split_ifs at h <;> cases h <;> constructor <;> rfl
  | call n => rw [exec, execCall] at h; split_ifs at h <;> cases h <;> constructor <;> rfl
  | seImm x n => cases h; unfold skipIf; split_ifs <;> constructor <;> rfl
  | sneImm x n => cases h; unfold skipIf; split_ifs <;> constructor <;> rfl
  | seReg x n => cases h; unfold skipIf; split_ifs <;> constructor <;> rfl
  | sneReg x n => cases h; unfold skipIf; split_ifs <;> constructor <;> rfl
  | skp x => cases h; unfold skipIf; split_ifs <;> constructor <;> rfl
  | sknp x => cases h; unfold skipIf; split_ifs <;> constructor <;> rfl
  | ldVxK x => cases h; split <;> constructor <;> rfl
  | drw x y n => cases h; constructor <;> simp [writeFlag]
  | ldVxMem x => cases h; constructor <;> simp
  | _ => cases h; constructor <;> rfl

/-- All a step can do: no tick while stopped, the DECODE fault, or the decoded instruction. -/
theorem step_cases {s t : State} (h : step s = .next t) :
    ((s.halted = true ∨ s.fault ≠ none) ∧ t = noTick s) ∨
    (Running s ∧ (∃ e, disassemble (tickWord s) = .error e) ∧ t = raiseFault .decode (beginTick s)) ∨
    (Running s ∧ ∃ i u, disassemble (tickWord s) = .ok i ∧
      exec i (advance (observe i (beginTick s))) = .next u ∧ t = endTick u) := by
  unfold step loopIteration at h
  split_ifs at h with hc
  · left
    cases h
    refine ⟨?_, rfl⟩
    rcases Bool.or_eq_true_iff.1 hc with h | h
    · exact .inl h
    · exact .inr fun hn => by simp [hn] at h
  · right
    have hrun : Running s := by
      simp only [Bool.or_eq_true, not_or, Bool.not_eq_true] at hc
      exact ⟨hc.1, by simpa using hc.2⟩
    unfold tick at h
    simp only [beginTick_insnWord] at h
    split at h
    · rename_i i hi
      right
      unfold runInstr at h
      split at h
      · rename_i u hu
        cases h
        exact ⟨hrun, i, u, hi, hu, rfl⟩
      · cases h
      · cases h
    · rename_i e he
      left
      cases h
      exact ⟨hrun, ⟨e, he⟩, rfl⟩

/-- A tick whose word does not decode. -/
theorem step_of_error {s : State} {e : DecodeError} (hr : Running s) (he : disassemble (tickWord s) = .error e) :
    step s = .next (raiseFault .decode (beginTick s)) := by
  simp [step, loopIteration, hr.1, hr.2, tick, he]

/-- A tick whose word decodes. -/
theorem step_of_ok {s : State} {i : Instr} (hr : Running s) (he : disassemble (tickWord s) = .ok i) :
    step s = runInstr exec i (beginTick s) := by
  simp [step, loopIteration, hr.1, hr.2, tick, he]

/-- When a meaning faults: RET and CALL at the bounds under `strict`, and no other. -/
theorem exec_fault {i : Instr} {s t : State} (h : exec i s = .next t) :
    (i = .ret ∧ s.sp = 0 ∧ s.config.stackCheck = .strict ∧ t = raiseFault .stackUnderflow s) ∨
    ((∃ n, i = .call n) ∧ s.sp = 15 ∧ s.config.stackCheck = .strict ∧ t = raiseFault .stackOverflow s) ∨
    (t.fault = s.fault ∧ t.out.fault = s.out.fault ∧
      ¬(i = .ret ∧ s.sp = 0 ∧ s.config.stackCheck = .strict) ∧
      ¬((∃ n, i = .call n) ∧ s.sp = 15 ∧ s.config.stackCheck = .strict)) := by
  cases i with
  | ret =>
    rw [exec, execRet] at h; split_ifs at h with hc <;> cases h
    · exact .inl ⟨rfl, hc.1, hc.2, rfl⟩
    · exact .inr (.inr ⟨rfl, rfl, by tauto, by simp⟩)
  | call n =>
    rw [exec, execCall] at h; split_ifs at h with hc <;> cases h
    · exact .inr (.inl ⟨⟨n, rfl⟩, hc.1, hc.2, rfl⟩)
    · exact .inr (.inr ⟨rfl, rfl, by simp, by tauto⟩)
  | seImm x n => cases h; unfold skipIf; split_ifs <;> exact .inr (.inr ⟨rfl, rfl, by simp, by simp⟩)
  | sneImm x n => cases h; unfold skipIf; split_ifs <;> exact .inr (.inr ⟨rfl, rfl, by simp, by simp⟩)
  | seReg x n => cases h; unfold skipIf; split_ifs <;> exact .inr (.inr ⟨rfl, rfl, by simp, by simp⟩)
  | sneReg x n => cases h; unfold skipIf; split_ifs <;> exact .inr (.inr ⟨rfl, rfl, by simp, by simp⟩)
  | skp x => cases h; unfold skipIf; split_ifs <;> exact .inr (.inr ⟨rfl, rfl, by simp, by simp⟩)
  | sknp x => cases h; unfold skipIf; split_ifs <;> exact .inr (.inr ⟨rfl, rfl, by simp, by simp⟩)
  | ldVxK x => cases h; split <;> exact .inr (.inr ⟨rfl, rfl, by simp, by simp⟩)
  | ldVxMem x => cases h; exact .inr (.inr ⟨by simp, by simp, by simp, by simp⟩)
  | _ => cases h; exact .inr (.inr ⟨rfl, rfl, by simp, by simp⟩)

/-- Memory right after reset is in canonical form. -/
theorem resetMemory_wf : State.reset.mem.wf State.reset.params := by decide

/-- A load leaves memory in canonical form (70_reset_and_hazards R262). -/
theorem load_wf {bytes : List Byte} {s t : State} (hp : s.params.Wf) (h : load bytes s = .ok t) :
    t.mem.wf t.params := by
  unfold load at h
  split_ifs at h
  cases h
  exact Memory.wf_writeRun [] _ hp _ _ ⟨.nil, fun _ h => absurd h List.not_mem_nil⟩

/-- The parameters of this hardware fit together (00_scope R5). -/
theorem hardware_wf : Parameters.hardware.Wf :=
  ⟨by decide, by decide, by decide, by decide, by decide, by decide⟩

/-- Steps 6 and 7 leave the fault latch. -/
@[simp] theorem endTick_fault (s : State) : (endTick s).fault = s.fault := by
  unfold endTick; split_ifs <;> rfl

/-- Steps 6 and 7 leave `pc`. -/
@[simp] theorem endTick_pc (s : State) : (endTick s).pc = s.pc := by
  unfold endTick; split_ifs <;> rfl

/-- Steps 6 and 7 leave memory. -/
@[simp] theorem endTick_mem (s : State) : (endTick s).mem = s.mem := by
  unfold endTick; split_ifs <;> rfl

/-- Steps 6 and 7 leave the stack. -/
@[simp] theorem endTick_stack (s : State) : (endTick s).stack = s.stack := by
  unfold endTick; split_ifs <;> rfl

/-- Steps 6 and 7 leave the stack pointer. -/
@[simp] theorem endTick_sp (s : State) : (endTick s).sp = s.sp := by
  unfold endTick; split_ifs <;> rfl

/-- Steps 6 and 7 leave the parameters. -/
@[simp] theorem endTick_params (s : State) : (endTick s).params = s.params := by
  unfold endTick; split_ifs <;> rfl

/-- Steps 6 and 7 leave the display. -/
@[simp] theorem endTick_display (s : State) : (endTick s).display = s.display := by
  unfold endTick; split_ifs <;> rfl

/-- Steps 6 and 7 leave the input sample. -/
@[simp] theorem endTick_input (s : State) : (endTick s).input = s.input := by
  unfold endTick; split_ifs <;> rfl

/-- Steps 6 and 7 leave the configuration. -/
@[simp] theorem endTick_config (s : State) : (endTick s).config = s.config := by
  unfold endTick; split_ifs <;> rfl

/-- Steps 6 and 7 of a tick that did not fault. -/
theorem endTick_of_none {s : State} (h : s.fault = none) : endTick s = notifyFrame (timers s) := by
  simp [endTick, h]

/-- Steps 6 and 7 do not run in a tick that faulted. -/
theorem endTick_of_some {s : State} {r : FaultRecord} (h : s.fault = some r) : endTick s = s := by
  simp [endTick, h]

end Sys2Proof.Machine
end

