-- ==== Sys2Proof/Tests/Slice0.lean ====
section
/-! SUPPORT. The model's own tests. Every expected value comes from 95_test_vectors (its row is named) or
from the encoding table 30_encoding R75; a theorem named `witness_<statement>` shows values that meet the
hypotheses of the obligation of that name, clause by clause. -/

namespace Sys2Proof.Tests

open Sys2Proof.Machine Sys2Proof.Claims

/-- A sample with no override, the given key, and RAND = 0 (95_test_vectors, conventions). -/
def sample (key : Option Byte) : TickInput := { overrideWord := none, key := key, rand := 0 }

/-- The state after reset at `pc`, with registers written and the coming tick's sample fixed. -/
def start (pc : Word) (regs : List (Reg × Byte)) : State :=
  regs.foldl (fun s xv => writeReg xv.1 xv.2 s)
    { State.reset with pc := pc, pending := [sample none] }

/-- The state one step after the word `w` is placed at `pc`. -/
def ticked (w : Nat) (s : State) : State :=
  match step (s.withFetchWord 16 w) with
  | .next t => t
  | .fault _ => s
  | .refused _ => s

/-- `s` under the `wrap` policy. -/
def wrapping (s : State) : State := { s with config := { s.config with stackCheck := .wrap } }

/-- `s` with the shift quirk on. -/
def quirky (s : State) : State := { s with config := { s.config with shiftQuirk := true } }

/-- The instruction a word decodes to. -/
def read (w : Word) : Option Instr := (disassemble w).toOption

/-! WellFormed refuses the two terms no word decodes to (30_encoding R77). -/

theorem test_wellformed_refuses_sys_at_cls : WellFormed (.sys 0x0E0) = false := by decide

theorem test_wellformed_refuses_sys_at_ret : WellFormed (.sys 0x0EE) = false := by decide

theorem test_wellformed_keeps_the_neighbours :
    WellFormed (.sys 0x0E1) = true ∧ WellFormed (.sys 0x0EF) = true ∧ WellFormed .cls = true ∧
    WellFormed .ret = true := by decide

/-! Decoding, every constructor once: words written out from the templates of 30_encoding R75. -/

theorem test_decode_control :
    [0x0ABC, 0x00E0, 0x00EE, 0x1234, 0x2FFF, 0x3A55, 0x4A55].map read =
    [some (.sys 0xABC), some .cls, some .ret, some (.jp 0x234), some (.call 0xFFF),
      some (.seImm 0xA 0x55), some (.sneImm 0xA 0x55)] := by decide

theorem test_decode_registers :
    [0x5120, 0x9120, 0x6555, 0x7FFF, 0x8120, 0x8121, 0x8122].map read =
    [some (.seReg 1 2), some (.sneReg 1 2), some (.ldImm 5 0x55), some (.addImm 0xF 0xFF),
      some (.ldReg 1 2), some (.or 1 2), some (.and 1 2)] := by decide

theorem test_decode_arithmetic :
    [0x8123, 0x8124, 0x8125, 0x8126, 0x8127, 0x812E, 0xCFA5].map read =
    [some (.xor 1 2), some (.addReg 1 2), some (.sub 1 2), some (.shr 1 2), some (.subn 1 2),
      some (.shl 1 2), some (.rnd 0xF 0xA5)] := by decide

theorem test_decode_index_display :
    [0xA123, 0xB321, 0xDABF, 0xE39E, 0xE4A1, 0xF507, 0xF60A].map read =
    [some (.ldI 0x123), some (.jpV0 0x321), some (.drw 0xA 0xB 0xF), some (.skp 3), some (.sknp 4),
      some (.ldVxDt 5), some (.ldVxK 6)] := by decide

theorem test_decode_timers_memory :
    [0xF715, 0xF818, 0xF91E, 0xFA29, 0xFB33, 0xFC55, 0xFF65].map read =
    [some (.ldDtVx 7), some (.ldStVx 8), some (.addIVx 9), some (.ldFVx 0xA), some (.ldBVx 0xB),
      some (.ldMemVx 0xC), some (.ldVxMem 0xF)] := by decide

/-- 95_test_vectors D-05 and D-06. -/
theorem test_decode_near_cls_and_ret :
    [0x00E1, 0x00EF].map read = [some (.sys 0x0E1), some (.sys 0x0EF)] := by decide

/-- 95_test_vectors D-13, D-14, D-18, D-20, D-26, D-29. -/
theorem test_decode_refuses :
    [0x5121, 0x512F, 0x8128, 0x812D, 0x812F, 0x9121, 0xE09F, 0xE000, 0xF000, 0xF0FF, 0xF066].map read =
    List.replicate 11 none := by decide

/-- The encoder on one instruction of each operand shape (30_encoding R75). -/
theorem test_encode :
    [Instr.call 0xFFF, .seImm 0xA 0x55, .shr 1 2, .drw 0xA 0xB 0xF, .sknp 4, .ldVxMem 0xF, .ret].map encode =
    [0x2FFF, 0x3A55, 0x8126, 0xDABF, 0xE4A1, 0xFF65, 0x00EE] := by decide

/-- The table's numbering: the first byte of the word is the high one (20_memory R52). -/
theorem test_decode_table_word :
    decodeTableWord 16 0x7123 = some (.addImm 1 0x23) ∧ decodeTableWord 16 0x8008 = none := by decide

/-! Control flow (95_test_vectors V-CTL). -/

/-- C-01. -/
theorem test_sys : (ticked 0x0ABC (start 0x200 [])).pc = 0x202 := by decide

/-- C-02. -/
theorem test_ret :
    let t := ticked 0x00EE
      { start 0x200 [] with sp := 1, stack := State.reset.stack.set 1 0x206 }
    t.pc = 0x206 ∧ t.sp = 0 ∧ t.stack[(1 : Fin 16)] = 0x206 := by decide

/-- C-07. -/
theorem test_jp : (ticked 0x1FFF (start 0x200 [])).pc = 0xFFF := by decide

/-- C-09. -/
theorem test_call_at_the_top :
    let t := ticked 0x2300 (start 0xFFE [])
    t.sp = 1 ∧ t.stack[(1 : Fin 16)] = 0x000 ∧ t.pc = 0x300 := by decide

/-- C-05 and C-11. -/
theorem test_stack_wraps :
    let r := ticked 0x00EE (wrapping { start 0x200 [] with stack := State.reset.stack.set 0 0x345 })
    let c := ticked 0x2300 (wrapping { start 0x208 [] with sp := 15 })
    (r.pc = 0x345 ∧ r.sp = 15 ∧ r.fault = none) ∧
    (c.sp = 0 ∧ c.stack[(0 : Fin 16)] = 0x20A ∧ c.pc = 0x300) := by decide

/-- C-03 and C-10. -/
theorem test_stack_faults :
    let r := ticked 0x00EE (start 0x200 [])
    let c := ticked 0x2300 { start 0x200 [] with sp := 15 }
    (r.fault = some ⟨.stackUnderflow, 0x200, 0x00EE⟩ ∧ r.pc = 0x200 ∧ r.sp = 0) ∧
    (c.fault = some ⟨.stackOverflow, 0x200, 0x2300⟩ ∧ c.pc = 0x200 ∧ c.sp = 15 ∧
      c.stack = State.reset.stack) := by decide

/-- C-12 and C-13. -/
theorem test_se_imm :
    (ticked 0x3305 (start 0x208 [(3, 0x05)])).pc = 0x20C ∧
    (ticked 0x3305 (start 0x208 [(3, 0x04)])).pc = 0x20A := by decide

/-- C-14. -/
theorem test_skip_wraps : (ticked 0x3000 (start 0xFFE [])).pc = 0x002 := by decide

/-- C-15 and C-16. -/
theorem test_sne_imm :
    (ticked 0x4305 (start 0x208 [(3, 0x04)])).pc = 0x20C ∧
    (ticked 0x4305 (start 0x208 [(3, 0x05)])).pc = 0x20A := by decide

/-- C-17 and C-18. -/
theorem test_se_reg :
    (ticked 0x5120 (start 0x300 [(1, 0x10), (2, 0x10)])).pc = 0x304 ∧
    (ticked 0x5110 (start 0x300 [(1, 0x10)])).pc = 0x304 := by decide

/-- C-19 and C-20. -/
theorem test_sne_reg :
    (ticked 0x9120 (start 0x300 [(1, 0x10), (2, 0x11)])).pc = 0x304 ∧
    (ticked 0x9110 (start 0x300 [(1, 0x10)])).pc = 0x302 := by decide

/-- C-21 and C-22. -/
theorem test_jp_v0 :
    (ticked 0xBFF8 (start 0x200 [(0, 0x10)])).pc = 0x008 ∧
    (ticked 0xB300 (start 0x200 [(0, 0xFF)])).pc = 0x3FF := by decide

/-! Registers and arithmetic (95_test_vectors V-ALU). -/

/-- The pair (register `x`, VF) after one tick. -/
def resultAndFlag (w : Nat) (x : Reg) (s : State) : Byte × Byte :=
  let t := ticked w s
  (t.V[x], t.V[(15 : Reg)])

/-- A-01 and A-02. -/
theorem test_ld_imm :
    resultAndFlag 0x6A55 0xA (start 0x200 []) = (0x55, 0) ∧
    resultAndFlag 0x6F12 0xF (start 0x200 [(0xF, 1)]) = (0x12, 0x12) := by decide

/-- A-03 and A-04. -/
theorem test_add_imm :
    resultAndFlag 0x71FD 1 (start 0x200 [(1, 0x10), (0xF, 0x77)]) = (0x0D, 0x77) ∧
    resultAndFlag 0x7FFF 0xF (start 0x200 [(0xF, 1)]) = (0, 0) := by decide

/-- A-05 and A-06. -/
theorem test_ld_reg_or :
    resultAndFlag 0x8120 1 (start 0x200 [(2, 0x7F)]) = (0x7F, 0) ∧
    resultAndFlag 0x8121 1 (start 0x200 [(1, 0xF0), (2, 0x0F), (0xF, 0x55)]) = (0xFF, 0x55) := by decide

/-- A-07 and A-08. -/
theorem test_and_xor :
    resultAndFlag 0x8122 1 (start 0x200 [(1, 0xF0), (2, 0x3C)]) = (0x30, 0) ∧
    resultAndFlag 0x8123 1 (start 0x200 [(1, 0xF0), (2, 0x3C)]) = (0xCC, 0) := by decide

/-- A-10 and A-11. -/
theorem test_add_reg :
    resultAndFlag 0x8124 1 (start 0x200 [(1, 0x33), (2, 0xDD)]) = (0x10, 1) ∧
    resultAndFlag 0x8124 1 (start 0x200 [(1, 0x33), (2, 0xCC), (0xF, 1)]) = (0xFF, 0) := by decide

/-- A-13 and A-14. -/
theorem test_add_reg_with_vf :
    resultAndFlag 0x8F14 0xF (start 0x200 [(0xF, 0xF0), (1, 0x20)]) = (1, 1) ∧
    resultAndFlag 0x81F4 1 (start 0x200 [(1, 0x20), (0xF, 1)]) = (0x21, 0) := by decide

/-- A-15 and A-18. -/
theorem test_sub :
    resultAndFlag 0x8125 1 (start 0x200 [(1, 0x01), (2, 0x02)]) = (0xFF, 0) ∧
    resultAndFlag 0x8115 1 (start 0x200 [(1, 0x01)]) = (0, 1) := by decide

/-- A-19. -/
theorem test_sub_with_vf :
    resultAndFlag 0x8F15 0xF (start 0x200 [(0xF, 0x05), (1, 0x03)]) = (1, 1) := by decide

/-- A-20 and A-21. -/
theorem test_subn :
    resultAndFlag 0x8127 1 (start 0x200 [(1, 0x02), (2, 0x01)]) = (0xFF, 0) ∧
    resultAndFlag 0x8127 1 (start 0x200 [(1, 0x01), (2, 0x02)]) = (0x01, 1) := by decide

/-- A-23, A-24 and A-25. -/
theorem test_shr :
    resultAndFlag 0x8456 4 (start 0x200 [(4, 0x81), (5, 0x04)]) = (0x40, 1) ∧
    resultAndFlag 0x8456 4 (quirky (start 0x200 [(4, 0x81), (5, 0x04)])) = (0x02, 0) ∧
    resultAndFlag 0x8F06 0xF (start 0x200 [(0xF, 0x03)]) = (1, 1) := by decide

/-- A-26 and A-27. -/
theorem test_shl :
    resultAndFlag 0x844E 4 (start 0x200 [(4, 0x40)]) = (0x80, 0) ∧
    resultAndFlag 0x845E 4 (quirky (start 0x200 [(4, 0x01), (5, 0x81)])) = (0x02, 1) := by decide

/-- A-29 and A-30. -/
theorem test_rnd :
    let s := { start 0x200 [] with pending := [{ overrideWord := none, key := none, rand := 0xA7 }] }
    resultAndFlag 0xC10F 1 s = (0x07, 0) ∧ resultAndFlag 0xC100 1 s = (0, 0) := by decide

/-! Index register and memory (95_test_vectors V-MEM). -/

/-- M-01 and M-02. -/
theorem test_ld_i :
    (ticked 0xA123 (start 0x200 [])).I = 0x0123 ∧
    (ticked 0xA000 { start 0x200 [] with I := 0xF123 }).I = 0 := by decide

/-- M-03 and M-04. -/
theorem test_add_i :
    (ticked 0xF21E { start 0x200 [(2, 2)] with I := 0x0FFF }).I = 0x1001 ∧
    (ticked 0xF21E { start 0x200 [(2, 1)] with I := 0xFFFF }).I = 0 := by decide

/-- M-05 and M-08. -/
theorem test_ld_f :
    (ticked 0xF229 (start 0x200 [(2, 0x07)])).I = 0x0023 ∧
    (ticked 0xF229 (start 0x200 [(2, 0xFF)])).I = 0x04FB := by decide

/-- M-09, the digits of 123. -/
theorem test_ld_b :
    let t := ticked 0xFA33 { start 0x200 [(0xA, 123)] with I := 0x300 }
    [0x300, 0x301, 0x302, 0x303].map (byteAt t) = [1, 2, 3, 0] ∧ t.I = 0x300 := by decide

/-- M-10. -/
theorem test_ld_b_wraps :
    let t := ticked 0xFA33 { start 0x200 [(0xA, 255)] with I := 0xFFF }
    [0xFFF, 0x000, 0x001, 0x002].map (byteAt t) = [2, 5, 5, 0x90] := by decide

/-- M-11. -/
theorem test_ld_mem_vx :
    let t := ticked 0xF155 { start 0x200 [(0, 0xAA), (1, 0xBB), (2, 0xCC)] with I := 0x400 }
    [0x400, 0x401, 0x402].map (byteAt t) = [0xAA, 0xBB, 0] ∧ t.I = 0x402 := by decide

/-- M-13 with two registers: the store that crosses the top of memory. -/
theorem test_ld_mem_vx_wraps :
    let t := ticked 0xF155 { start 0x200 [(0, 0x77), (1, 0x88)] with I := 0xFFF }
    [0xFFF, 0x000].map (byteAt t) = [0x77, 0x88] ∧ t.I = 0x1001 := by decide

/-- M-14. -/
theorem test_ld_vx_mem :
    let t := ticked 0xF265
      { start 0x200 [(3, 9)] with I := 0x300, mem := [(0x300, 1), (0x301, 2), (0x302, 3)] }
    [0, 1, 2, 3].map (fun x : Reg => t.V[x]) = [1, 2, 3, 9] ∧ t.I = 0x303 := by decide

/-- M-16. -/
theorem test_ld_vx_mem_wraps :
    let t := ticked 0xF165 { start 0x200 [] with I := 0xFFFF, mem := [(0, 0x22), (0xFFF, 0x11)] }
    [0, 1].map (fun x : Reg => t.V[x]) = [0x11, 0x22] ∧ t.I = 0x0001 := by decide

/-! Display, input and timers (95_test_vectors V-DIT). -/

/-- The pixels on in the columns and rows given, as (x, y). -/
def lit (xs ys : List Nat) (p : Plane) : List (Nat × Nat) :=
  ys.flatMap fun y => (xs.filter fun x => p.pixel x y).map fun x => (x, y)

/-- T-01. -/
theorem test_cls :
    let t := ticked 0x00E0 { start 0x200 [] with display := (Plane.blank.flip 0 0).flip 63 31 }
    t.display = Plane.blank ∧ t.out.display = [.clear] ∧ t.out.frameComplete = true := by decide

/-- T-02 and T-06. -/
theorem test_drw :
    let t := ticked 0xD555 { start 0x200 [] with I := 0x023 }
    let z := ticked 0xD120 (start 0x200 [(0xF, 1)])
    (z.V[(15 : Reg)] = 0 ∧ z.out.display = [] ∧ z.out.frameComplete = true) ∧
    lit [0, 1, 2, 3, 4, 5, 6, 7] [0, 1, 2, 3, 4, 5] t.display =
      [(0, 0), (1, 0), (2, 0), (3, 0), (3, 1), (2, 2), (1, 3), (1, 4)] ∧
    t.V[(15 : Reg)] = 0 ∧ t.out.frameComplete = true := by decide

/-- T-04 and T-05: both edges wrap, and a pixel already on is a collision. -/
theorem test_drw_wraps_and_collides :
    let t := ticked 0xD125 { start 0x200 [(1, 62), (2, 30)] with display := Plane.blank.flip 62 30 }
    lit [62, 63, 0, 1, 2] [30, 31, 0, 1, 2, 3] t.display =
      [(63, 30), (0, 30), (1, 30), (62, 31), (1, 31), (62, 0), (1, 0), (62, 1), (1, 1),
        (62, 2), (63, 2), (0, 2), (1, 2)] ∧
    t.V[(15 : Reg)] = 1 := by decide

/-- T-09 and T-11. -/
theorem test_skp :
    (ticked 0xE39E { start 0x202 [(3, 0x0A)] with pending := [sample (some 0xA)] }).pc = 0x206 ∧
    (ticked 0xE39E { start 0x202 [(3, 0x1A)] with pending := [sample (some 0xA)] }).pc = 0x204 := by
  decide

/-- T-12 and T-13. -/
theorem test_sknp :
    (ticked 0xE3A1 (start 0x202 [(3, 0x0A)])).pc = 0x206 ∧
    (ticked 0xE3A1 { start 0x202 [(3, 0x0A)] with pending := [sample (some 0xA)] }).pc = 0x204 := by
  decide

/-- T-14. -/
theorem test_ld_vx_dt :
    let t := ticked 0xF207 { start 0x200 [] with DT := 4 }
    t.V[(2 : Reg)] = 4 ∧ t.DT = 3 := by decide

/-- T-16 and T-18: the blocked tick. -/
theorem test_ld_vx_k_blocks :
    let t := ticked 0xF50A { start 0xFFE [(5, 0x99)] with DT := 3, ST := 2 }
    t.pc = 0xFFE ∧ t.DT = 2 ∧ t.ST = 1 ∧ t.V[(5 : Reg)] = 0x99 := by decide

/-- T-17. -/
theorem test_ld_vx_k_takes_the_key :
    let t := ticked 0xF50A { start 0x300 [] with pending := [sample (some 0x7)] }
    t.pc = 0x302 ∧ t.V[(5 : Reg)] = 0x07 := by decide

/-- T-19 and T-20. -/
theorem test_ld_dt_vx :
    (ticked 0xF015 (start 0x200 [(0, 5)])).DT = 4 ∧ (ticked 0xF015 (start 0x200 [])).DT = 0 := by decide

/-- T-21 and T-22. -/
theorem test_ld_st_vx :
    let t := ticked 0xF318 (start 0x200 [(3, 1)])
    t.ST = 0 ∧ t.out.beep = true ∧ (ticked 0xF318 (start 0x200 [])).out.beep = false := by decide

/-- T-24. -/
theorem test_timers_count_down :
    let t := ticked 0x0000 { start 0x200 [] with DT := 0xFF, ST := 1 }
    t.DT = 0xFE ∧ t.ST = 0 ∧ t.out.beep = true := by decide

/-! Faults, the tick and the load (95_test_vectors V-FLT). -/

/-- F-01. -/
theorem test_decode_fault :
    let t := ticked 0x8008 { start 0x202 [(0, 1)] with DT := 5, ST := 5 }
    t.fault = some ⟨.decode, 0x202, 0x8008⟩ ∧ t.pc = 0x202 ∧ t.DT = 5 ∧ t.ST = 5 ∧
    t.out = { Outputs.none with fault := t.fault } := by decide

/-- F-05: the fetch wraps, and so does the advance. -/
theorem test_fetch_wraps :
    fetchWord { start 0xFFF [] with mem := [(0x000, 0x23), (0xFFF, 0x61)] } = 0x6123 ∧
    (ticked 0x6123 (start 0xFFF [])).V[(1 : Reg)] = 0x23 ∧ (ticked 0x6123 (start 0xFFF [])).pc = 0x001 := by
  decide

/-- F-06: an override runs instead of the word in memory. -/
theorem test_override :
    ∃ t, step { start 0x250 [] with pending := [{ sample none with overrideWord := some 0x6A01 }] } =
      .next t ∧ t.V[(0xA : Reg)] = 1 ∧ t.pc = 0x252 := ⟨_, rfl, by decide, by decide⟩

/-- The tie rule of 30_encoding R78, on a catalog with one entry twice. -/
theorem test_decode_tie :
    disassembleWith (catalog ++ catalog) 0x1234 = .error (.tie 0x1234) := by decide

/-- The parameters are arguments (00_scope R5): another flag register takes the carry, and a key code
presented with more bits than KEY_WIDTH is carried on its low ones. -/
theorem test_parameters_are_arguments :
    let s := start 0x200 [(1, 0xFF), (2, 0x01)]
    let t := ticked 0x8124 { s with params := { s.params with flagReg := 14 } }
    t.V[(14 : Reg)] = 1 ∧ t.V[(15 : Reg)] = 0 ∧
    (nextInput { s with pending := [sample (some 0x1A)] }).key = some 0x0A := by decide

/-- Another MEM_SIZE and ADDR_MASK (00_scope R5) move where the advance wraps and where a load stops
fitting. -/
theorem test_memory_size_is_an_argument :
    let s := start 0x7FE []
    let h := { s with params := { s.params with memSize := 0x800, addrMask := 0x07FF } }
    (ticked 0x0000 h).pc = 0x000 ∧ (ticked 0x0000 s).pc = 0x800 ∧ h.params.maxProgram = 1536 := by decide

/-- So are the widths and counts (00_scope R5): on a machine with 4-bit timers and a stack of 4 entries a timer
keeps four bits, and CALL at `sp = 3` overflows. -/
theorem test_widths_are_arguments :
    let s : Sized.State 16 8 16 16 4 2 4 :=
      Sized.State.initial Parameters.hardware Configuration.default Plane.blank
    (∃ t, execLdDtVx 3 (writeReg 3 0x25 s) = .next t ∧ t.DT = 5) ∧
    (∃ t, execCall 0x300 { s with sp := 3 } = .next t ∧ (t.fault.map (·.code)) = some .stackOverflow) :=
  ⟨⟨_, rfl, by decide⟩, ⟨_, rfl, by decide⟩⟩

/-- The numbers of the fault codes (60_exceptions R232). -/
theorem test_fault_numbers :
    [FaultCode.decode, .stackOverflow, .stackUnderflow].map FaultCode.number = [1, 2, 3] := by decide

/-! Witnesses: values that meet the hypotheses of each obligation, one part per clause. -/

/-- The state whose coming tick runs `w`. -/
def ready (w : Nat) (s : State) : State := s.withFetchWord 16 w

/-- What a meaning answers, as a state. -/
def after (i : Instr) (s : State) : State :=
  match exec i s with
  | .next t => t
  | .fault _ => s
  | .refused _ => s

/-- RET with something on the stack, at `sp = 0` under `wrap`, and at `sp = 0` under `strict`. -/
theorem witness_RetPopsReturnAddress :
    let s := { start 0x200 [] with sp := 1 }
    let w := wrapping (start 0x200 [])
    let u := start 0x200 []
    ((s.sp = 0 → s.config.stackCheck = .wrap) ∧ s.sp ≠ 0) ∧
    ((w.sp = 0 → w.config.stackCheck = .wrap) ∧ w.sp = 0) ∧
    (u.sp = 0 ∧ u.config.stackCheck = .strict) := by decide

theorem witness_RetUnderflow :
    let s := ready 0x00EE (start 0x200 [])
    let w := wrapping s
    (s.sp = 0 ∧ s.config.stackCheck = .strict ∧ Running s ∧ Decodes s .ret) ∧
    (w.sp = 0 ∧ w.config.stackCheck = .wrap) :=
  ⟨⟨rfl, rfl, ⟨rfl, rfl⟩, rfl⟩, rfl, rfl⟩

/-- CALL with one entry left, at `sp = 15` under `wrap`, and at `sp = 15` under `strict`. -/
theorem witness_CallPushesReturnAddress :
    let s := { start 0x200 [] with sp := 14 }
    let o := { start 0x200 [] with sp := 15 }
    let w := wrapping o
    ((s.sp = 15 → s.config.stackCheck = .wrap) ∧ s.sp ≠ 15) ∧
    ((w.sp = 15 → w.config.stackCheck = .wrap) ∧ w.sp = 15) ∧
    (o.sp = 15 ∧ o.config.stackCheck = .strict) := by decide

theorem witness_CallOverflow :
    let s := ready 0x2300 { start 0x200 [] with sp := 15 }
    let w := wrapping s
    (s.sp = 15 ∧ s.config.stackCheck = .strict ∧ Running s ∧ Decodes s (.call 0x300)) ∧
    (w.sp = 15 ∧ w.config.stackCheck = .wrap) ∧ (∃ j : Fin 16, j ≠ 0) :=
  ⟨⟨rfl, rfl, ⟨rfl, rfl⟩, rfl⟩, ⟨rfl, rfl⟩, ⟨15, by decide⟩⟩

/-- A call, and a callee that left another value in a register; and the wrapping call at `sp = 15`. -/
theorem witness_RetUndoesCall :
    let s := start 0x202 []
    let w := wrapping { s with sp := 15 }
    (∃ t u : State, (s.sp = 15 → s.config.stackCheck = .wrap) ∧ s.params.Wf ∧
      s.pc.toNat < s.params.memSize ∧ exec (.call 0x300) s = .next t ∧ u.sp = t.sp ∧ u.stack = t.stack ∧
      u.params = t.params ∧ u.config = t.config ∧ u.V ≠ t.V) ∧
    (∃ t, (w.sp = 15 → w.config.stackCheck = .wrap) ∧ w.params.Wf ∧ w.pc.toNat < w.params.memSize ∧
      exec (.call 0x300) w = .next t) :=
  ⟨⟨after (.call 0x300) (start 0x202 []), writeReg 3 9 (after (.call 0x300) (start 0x202 [])),
    by decide, hardware_wf, by decide, rfl, rfl, rfl, rfl, rfl, by decide⟩,
    ⟨_, by decide, hardware_wf, by decide, rfl⟩⟩

/-- The mask of this hardware, under which a jump to NNN is to NNN. -/
theorem witness_JumpsTo : (start 0x200 []).params.addrMask = 0x0FFF := by decide

/-- Parameters that fit together: those of this hardware. -/
theorem witness_MemoryAccess :
    (start 0x200 []).params.Wf ∧ (start 0x200 []).params = Parameters.hardware := ⟨hardware_wf, rfl⟩

/-- The conditions of the four skips, each met and each not met. -/
theorem witness_CompareSkips :
    let s := start 0xFFE [(1, 0x10), (2, 0x10), (3, 0x11)]
    s.V[(1 : Reg)] = 0x10 ∧ s.V[(1 : Reg)] ≠ 0x11 ∧ s.V[(1 : Reg)] = s.V[(2 : Reg)] ∧
    s.V[(1 : Reg)] ≠ s.V[(3 : Reg)] := by decide

/-- A register other than the destination, at both ends of the register file. -/
theorem witness_WritesReg : (0 : Reg) ≠ 15 ∧ (15 : Reg) ≠ 0 := by decide

/-- The carry and the not-borrow at their bounds, with a destination that is not VF and one that is. -/
theorem witness_WritesRegAndFlag :
    let s := start 0x200 [(1, 0xFF), (2, 0x01), (3, 0x00), (15, 0x01)]
    (1 : Reg) ≠ 15 ∧ 255 < s.V[(1 : Reg)].toNat + s.V[(2 : Reg)].toNat ∧
    ¬255 < s.V[(1 : Reg)].toNat + s.V[(3 : Reg)].toNat ∧
    255 < s.V[(15 : Reg)].toNat + s.V[(1 : Reg)].toNat ∧
    s.V[(2 : Reg)].toNat ≤ s.V[(15 : Reg)].toNat ∧ ¬s.V[(2 : Reg)].toNat ≤ s.V[(3 : Reg)].toNat ∧
    (2 : Reg) ≠ 1 ∧ (2 : Reg) ≠ 15 := by decide

/-- The shift source with the quirk off and on, and with one register as both. -/
theorem witness_ShiftsWithBitShiftedOut :
    let s := start 0x200 [(4, 0x81), (5, 0x04)]
    shiftSourceIs s 4 5 0x81 ∧ shiftSourceIs (quirky s) 4 5 0x04 ∧ shiftSourceIs s 4 4 0x81 ∧
    (0x81 : Byte).toNat % 2 = 1 ∧ ¬(0x04 : Byte).toNat % 2 = 1 ∧ 128 ≤ (0x81 : Byte).toNat ∧
    ¬128 ≤ (0x04 : Byte).toNat := by
  refine ⟨⟨?_, ?_⟩, ⟨?_, ?_⟩, ⟨?_, ?_⟩, ?_⟩ <;> decide

/-- The mask of the last clause. -/
theorem witness_RandomByteMasked : (0x00 : Byte) = 0 := by decide

/-- The parameters of this hardware, and a register value past the font. -/
theorem witness_IndexWrites : (start 0x200 [(2, 0xFF)]).params = Parameters.hardware := rfl

/-- An address BCD stores to and the ones beside it, for an `I` at the top of memory. -/
theorem witness_BcdStore :
    let s := { start 0x200 [] with I := 0xFFF }
    s.params.Wf ∧ (∀ k, k < 3 → 0xFFE ≠ decodeAddr s.params (effAddr s k)) ∧
    (∀ k, k < 3 → 2 ≠ decodeAddr s.params (effAddr s k)) ∧ 1 = decodeAddr s.params (effAddr s 2) :=
  ⟨hardware_wf, by decide, by decide, by decide⟩

/-- The registers a block transfer of V0..VE moves, one it leaves, and an address it leaves. -/
theorem witness_BlockStore :
    let s := { start 0x200 [] with I := 0xFF8 }
    s.params.Wf ∧ ((0 : Reg) ≤ 14 ∧ (14 : Reg) ≤ 14) ∧
    (∀ k : Nat, k ≤ 14 → 7 ≠ decodeAddr s.params (effAddr s k)) ∧
    6 = decodeAddr s.params (effAddr s 14) :=
  ⟨hardware_wf, by decide, by decide, by decide⟩

theorem witness_BlockLoad : (14 : Reg) ≤ 14 ∧ (14 : Reg) < 15 := by decide

/-- A store of V0..V3, and then a state with the registers overwritten and `I` set back. -/
theorem witness_BlockLoadInvertsBlockStore :
    let s := { start 0x200 [(0, 1), (3, 4)] with I := 0xFFE }
    s.params.Wf ∧ ∃ t u : State, exec (.ldMemVx 3) s = .next t ∧ u.params = t.params ∧ u.mem = t.mem ∧
      u.I = s.I ∧ u.V ≠ s.V :=
  ⟨hardware_wf, _, { start 0x200 [] with
      I := 0xFFE, mem := (after (.ldMemVx 3) { start 0x200 [(0, 1), (3, 4)] with I := 0xFFE }).mem },
    rfl, rfl, rfl, rfl, by decide⟩

/-- A sample without an override and one with an override. -/
theorem witness_FetchOrOverride :
    (nextInput (start 0xFFF [])).overrideWord = none ∧
    (nextInput { start 0x250 [] with pending := [{ sample none with overrideWord := some 0x6A01 }] }).overrideWord
      = some 0x6A01 := by decide

/-- Stores to the first byte of the word at 0xFFF, to its second one, and beside it. -/
theorem witness_StoreSeenByFetch :
    let s := start 0xFFF []
    s.params.Wf ∧ (0xFFF : Word).toNat % s.params.memSize = s.pc.toNat % s.params.memSize ∧
    (0x000 : Word).toNat % s.params.memSize = (s.pc.toNat + 1) % s.params.memSize ∧
    ((0x001 : Word).toNat % s.params.memSize ≠ s.pc.toNat % s.params.memSize ∧
      (0x001 : Word).toNat % s.params.memSize ≠ (s.pc.toNat + 1) % s.params.memSize) :=
  ⟨hardware_wf, by decide, by decide, by decide⟩

theorem witness_IndexTopBitsSelectNothing :
    let s := { start 0x200 [] with I := 0x0FFF }
    s.params.Wf ∧ 0xFFFF &&& s.params.addrMask = s.I &&& s.params.addrMask ∧ 0xFFFF ≠ s.I :=
  ⟨hardware_wf, by decide, by decide⟩

theorem witness_OnlyStoresWriteMemory :
    (∃ t, exec .ret { start 0x200 [] with sp := 1 } = .next t) ∧
    ((∀ x, Instr.ret ≠ .ldBVx x) ∧ (∀ x, Instr.ret ≠ .ldMemVx x)) ∧ (∀ n, Instr.ret ≠ .call n) :=
  ⟨⟨_, rfl⟩, ⟨by simp, by simp⟩, by simp⟩

/-- The first pixel of glyph 7 drawn at (62, 31), on and off before; and a pixel it does not cover. -/
theorem witness_DrawXorsSprite :
    let s := { start 0x200 [(1, 62), (2, 31)] with I := 0x023 }
    let p := { s with display := Plane.blank.flip 1 31 }
    Covers s 1 2 5 62 31 ∧ Covers s 1 2 5 1 31 ∧ ¬Covers s 1 2 0 62 31 ∧
    (8 ≤ s.params.displayWidth ∧ (0xF : Nibble).toNat ≤ s.params.displayHeight) ∧
    (∃ px py, Covers p 1 2 5 px py ∧ p.display.pixel px py = true) ∧
    (∀ px py, Covers s 1 2 5 px py → s.display.pixel px py = false) := by
  refine ⟨⟨0, 0, by decide, by decide, by decide, by decide, by decide⟩,
    ⟨0, 3, by decide, by decide, by decide, by decide, by decide⟩, ?_, by decide,
    ⟨1, 31, ⟨0, 3, by decide, by decide, by decide, by decide, by decide⟩, by decide⟩, ?_⟩
  · rintro ⟨r, c, hr, _⟩
    simp at hr
  · intro px py _
    rfl

/-- No key, the key the register holds, and a register just above the key codes. -/
theorem witness_KeySkips :
    let s := start 0x200 [(3, 0x0F), (4, 0x10)]
    let t := { s with input := sample (some 0xF) }
    s.input.key ≠ some s.V[(3 : Reg)] ∧ t.input.key = some t.V[(3 : Reg)] ∧
    ((∀ k, t.input.key = some k → k.toNat < 2 ^ t.params.keyWidth) ∧
      2 ^ t.params.keyWidth ≤ t.V[(4 : Reg)].toNat) :=
  ⟨by decide, by decide, fun _ h => by cases h; decide, by decide⟩

/-- Step 5 without and with a key, a blocked tick at the top of memory, and a tick with the greatest key. -/
theorem witness_WaitForKey :
    let b := ready 0xF50A (start 0xFFE [])
    let k := ready 0xF50A { start 0x300 [] with pending := [sample (some 0xF)] }
    (start 0x200 []).input.key = none ∧
    ({ start 0x200 [] with input := sample (some 0xF) } : State).input.key = some 0xF ∧
    (Running b ∧ b.params.Wf ∧ b.pc.toNat < b.params.memSize ∧ Decodes b (.ldVxK 5) ∧ (nextInput b).key = none) ∧
    (Running k ∧ Decodes k (.ldVxK 5) ∧ (nextInput k).key = some 0xF) :=
  ⟨rfl, rfl, ⟨⟨rfl, rfl⟩, hardware_wf, by decide, rfl, rfl⟩, ⟨⟨rfl, rfl⟩, rfl, rfl⟩⟩

theorem witness_TimerMoves :
    let r := ready 0xF207 { start 0x200 [] with DT := 4 }
    let d := ready 0xF015 (start 0x200 [(0, 5)])
    let t := ready 0xF318 (start 0x200 [(3, 1)])
    (Running r ∧ Decodes r (.ldVxDt 2)) ∧ (Running d ∧ Decodes d (.ldDtVx 0)) ∧
    (Running t ∧ Decodes t (.ldStVx 3)) :=
  ⟨⟨⟨rfl, rfl⟩, rfl⟩, ⟨⟨rfl, rfl⟩, rfl⟩, ⟨⟨rfl, rfl⟩, rfl⟩⟩

/-- A word of every operand shape, placed and read from memory at the top of the address space. -/
theorem witness_StepRunsDecodedInstruction :
    let s := ready 0xDABF (start 0xFFF [])
    Running s ∧ Decodes s (.drw 0xA 0xB 0xF) := ⟨⟨rfl, rfl⟩, rfl⟩

theorem witness_DecodeFaultCommitsNothing :
    let s := ready 0xFFFF (start 0xFFF [])
    Running s ∧ disassemble (tickWord s) = .error (.noMatch 0xFFFF) := ⟨⟨rfl, rfl⟩, rfl⟩

/-- A halted state, a faulted one, one that is both, and a load into a faulted one. -/
theorem witness_NoTickWhileStopped :
    let r : FaultRecord := ⟨.decode, 0x200, 0x8008⟩
    (setHalted true (start 0x200 [])).halted = true ∧
    ({ start 0x200 [] with fault := some r } : State).fault = some r ∧
    ({ setHalted true (start 0x200 []) with fault := some r } : State).fault = some r ∧
    (∃ t, load [0x12, 0x00] { start 0x200 [] with fault := some r } = .ok t) :=
  ⟨rfl, rfl, rfl, _, rfl⟩

/-- A completed tick of LD_DT_VX, of LD_ST_VX with 1, and of another instruction with `ST = 1`. -/
theorem witness_TimersCountDown :
    let d := ready 0xF015 (start 0x200 [(0, 0)])
    let t := ready 0xF318 (start 0x200 [(3, 1)])
    let o := ready 0x0000 { start 0x200 [] with DT := 0, ST := 1 }
    (∃ u, Running d ∧ Decodes d (.ldDtVx 0) ∧ step d = .next u ∧ u.fault = none) ∧
    (∃ u, Running t ∧ Decodes t (.ldStVx 3) ∧ step t = .next u ∧ u.fault = none) ∧
    (∃ u, Running o ∧ Decodes o (.sys 0) ∧ step o = .next u ∧ u.fault = none ∧
      (∀ x, Instr.sys 0 ≠ .ldDtVx x) ∧ (∀ x, Instr.sys 0 ≠ .ldStVx x)) :=
  ⟨⟨_, ⟨rfl, rfl⟩, rfl, rfl, rfl⟩, ⟨_, ⟨rfl, rfl⟩, rfl, rfl, rfl⟩,
    ⟨_, ⟨rfl, rfl⟩, rfl, rfl, rfl, by simp, by simp⟩⟩

/-- A tick that notifies the frame, for a sprite of no rows, one that does not, and one that faults. -/
theorem witness_FrameNotification :
    let d := ready 0xD120 (start 0x200 [])
    let o := ready 0x1200 (start 0x200 [])
    let f := ready 0x00EE (start 0x200 [])
    (∃ u, Running d ∧ Decodes d (.drw 1 2 0) ∧ step d = .next u) ∧
    (∃ u, Running o ∧ Decodes o (.jp 0x200) ∧ step o = .next u) ∧
    (∃ u, Running f ∧ Decodes f .ret ∧ step f = .next u) :=
  ⟨⟨_, ⟨rfl, rfl⟩, rfl, rfl⟩, ⟨_, ⟨rfl, rfl⟩, rfl, rfl⟩, ⟨_, ⟨rfl, rfl⟩, rfl, rfl⟩⟩

theorem witness_PcAdvancesByTwo :
    let s := ready 0x6A55 (start 0xFFE [])
    ∃ t, Running s ∧ Decodes s (.ldImm 0xA 0x55) ∧ step s = .next t :=
  ⟨_, ⟨rfl, rfl⟩, rfl, rfl⟩

/-- A tick that faults, for each fault code. -/
theorem witness_FaultsArePrecise :
    let d := ready 0x8008 (start 0x202 [])
    let o := ready 0x2300 { start 0x200 [] with sp := 15 }
    let u := ready 0x00EE (start 0x200 [])
    (∃ t, Running d ∧ step d = .next t ∧ t.fault = some ⟨.decode, 0x202, 0x8008⟩) ∧
    (∃ t, Running o ∧ step o = .next t ∧ t.fault = some ⟨.stackOverflow, 0x200, 0x2300⟩) ∧
    (∃ t, Running u ∧ step u = .next t ∧ t.fault = some ⟨.stackUnderflow, 0x200, 0x00EE⟩) :=
  ⟨⟨_, ⟨rfl, rfl⟩, rfl, rfl⟩, ⟨_, ⟨rfl, rfl⟩, rfl, rfl⟩, ⟨_, ⟨rfl, rfl⟩, rfl, rfl⟩⟩

/-- A tick that does not fault: RET with one entry on the stack. -/
theorem witness_TickFaultsExactly :
    let s := ready 0x00EE { start 0x200 [] with sp := 1 }
    ∃ t, Running s ∧ step s = .next t ∧ t.fault = none := ⟨_, ⟨rfl, rfl⟩, rfl, rfl⟩

theorem witness_ConfigurationIsImmutable :
    (∃ t : State, construct Parameters.hardware true 1 .wrap true Plane.blank = .ok t) ∧
    (∃ t, step (ready 0x00E0 (quirky (start 0x200 []))) = .next t) ∧
    (∃ t, load [0x12, 0x00] (quirky (start 0x200 [])) = .ok t) := ⟨⟨_, rfl⟩, ⟨_, rfl⟩, ⟨_, rfl⟩⟩

/-- A tick that decodes and one that does not, with an observer attached. -/
theorem witness_ObserverChangesNothing :
    let s := ready 0x6A55 (withObserver true (start 0x200 []))
    let e := ready 0x8008 (withObserver true (start 0x200 []))
    (∃ t, Running s ∧ s.config.observer = true ∧ Decodes s (.ldImm 0xA 0x55) ∧ step s = .next t) ∧
    (∃ t, Running e ∧ disassemble (tickWord e) = .error (.noMatch 0x8008) ∧ step e = .next t) :=
  ⟨⟨_, ⟨rfl, rfl⟩, rfl, rfl, rfl⟩, ⟨_, ⟨rfl, rfl⟩, rfl, rfl⟩⟩

/-- One instruction of each clause: a flag writer with VF as destination, a register write beside VF, and
an instruction that writes no register. -/
theorem witness_FlagRegisterWriters :
    (∃ t, exec (.addReg 15 1) (start 0x200 [(15, 0xF0)]) = .next t) ∧
    (∃ t, exec (.ldVxMem 14) (start 0x200 [(15, 0xF0)]) = .next t ∧
      (14 : Reg) < State.reset.params.flagReg) ∧
    (∃ t, exec (.ldMemVx 15) (start 0x200 [(15, 0xF0)]) = .next t) :=
  ⟨⟨_, rfl⟩, ⟨_, rfl, by decide⟩, ⟨_, rfl⟩⟩

theorem witness_NoInstructionReadsSoundTimer :
    ∃ t, exec (.ldVxDt 1) { start 0x200 [] with ST := 9 } = .next t := ⟨_, rfl⟩

theorem witness_SamplesReadOnlyByTheirInstructions :
    (∃ t, exec (.rnd 1 0xFF) (start 0x200 []) = .next t ∧ (∀ x, Instr.rnd 1 0xFF ≠ .skp x) ∧
      (∀ x, Instr.rnd 1 0xFF ≠ .sknp x) ∧ (∀ x, Instr.rnd 1 0xFF ≠ .ldVxK x)) ∧
    (∃ t, exec (.skp 1) (start 0x200 []) = .next t ∧ ∀ x nn, Instr.skp 1 ≠ .rnd x nn) :=
  ⟨⟨_, rfl, by simp, by simp, by simp⟩, ⟨_, rfl, by simp⟩⟩

theorem witness_DecodeAfterEncode :
    WellFormed (.sys 0x0E1) = true ∧ WellFormed (.drw 0xF 0xF 0xF) = true := by decide

theorem witness_EncodeAfterDecode : disassemble 0xFFFF ≠ .ok .cls ∧ disassemble 0xFF65 = .ok (.ldVxMem 0xF) :=
  ⟨by decide, rfl⟩

/-- One word of each of the five classes, and a word of each of their top digits that decodes. -/
theorem witness_UndecodableWords :
    [0x5001, 0x800F, 0x9FFF, 0xE09D, 0xFF66].map read = List.replicate 5 none ∧
    [0x5FF0, 0x800E, 0x9FF0, 0xE09E, 0xFF65].map read =
      [some (.seReg 15 15), some (.shl 0 0), some (.sneReg 15 15), some (.skp 0), some (.ldVxMem 15)] := by
  decide

theorem witness_CatalogOrderIrrelevant : catalog.Perm catalog.reverse := (List.reverse_perm catalog).symm

/-- A font byte below the program, a program's byte, and an address of neither, at the bounds of each. -/
theorem witness_AsReset :
    let p := Parameters.hardware
    (79 < p.font.length ∧ p.fontBase.toNat + 79 < p.memSize ∧ OutsideProgram p 2 (p.fontBase.toNat + 79)) ∧
    (p.fontBase.toNat + p.font.length ≤ 80 ∧ OutsideProgram p 2 80) ∧ OutsideProgram p 2 0x202 :=
  ⟨⟨by decide, by decide, .inl (by decide)⟩, ⟨by decide, .inl (by decide)⟩, .inr (by decide)⟩

/-- Construction with the least frequency, an empty program, and one with a program. -/
theorem witness_ResetValues :
    (∃ t : State, construct Parameters.hardware true 1 .wrap true Plane.blank = .ok t) ∧
    (State.reset.params.Wf ∧ ∃ t, load [] State.reset = .ok t) ∧
    ((quirky (start 0x300 [(1, 2)])).params.Wf ∧
      ∃ t, load [0x12, 0x00] (quirky (start 0x300 [(1, 2)])) = .ok t) :=
  ⟨⟨_, rfl⟩, ⟨hardware_wf, _, rfl⟩, ⟨hardware_wf, _, rfl⟩⟩

/-- The bounds of the two host errors. -/
theorem witness_HostErrors :
    let p := State.reset.params
    (0 : Int) ≤ 0 ∧ (0 : Int) < 1 ∧ p = Parameters.hardware ∧
    p.memSize < p.programOrigin.toNat + (List.replicate 3585 (0x12 : Byte)).length ∧
    p.programOrigin.toNat + (List.replicate 3584 (0x12 : Byte)).length ≤ p.memSize := by
  simp only [List.length_replicate]; decide

theorem witness_ResetKeepsHostState :
    ∃ t, load [0x12, 0x00] { setHalted true State.reset with display := Plane.blank.flip 3 4 } = .ok t :=
  ⟨_, rfl⟩

/-- The least and the greatest word. -/
theorem witness_PlacedWordIsFetchedNext :
    (start 0xFFF []).params.Wf ∧ (0 < 0x10000) ∧ (0xFFFF < 0x10000) := ⟨hardware_wf, by decide, by decide⟩

/-- A state that meets the invariant and steps, a fault latched by the step included. -/
theorem witness_StepKeepsInvariant :
    let s := ready 0x00EE State.reset
    Inv s ∧ ∃ t, step s = .next t := by
  refine ⟨⟨by decide, by decide, by decide, rfl, by decide, hardware_wf, by decide, ?_, ?_⟩, _, rfl⟩
  · intro k h
    cases h
  · intro r h
    cases h

/-- A reachable state with a latched fault: a program of one RET, loaded and run. -/
theorem witness_ReachableMeetsInvariant :
    ∃ t, Reachable t ∧ t.fault = some ⟨.stackUnderflow, 0x200, 0x00EE⟩ := by
  have hc : construct Parameters.hardware false 300 .strict false Plane.blank = .ok State.reset := rfl
  have hl : load [0x00, 0xEE] State.reset = .ok (storeBytes 0x200 [0x00, 0xEE] (resetCore State.reset)) := rfl
  have hs := Reachable.supply (sample := sample none) (.load (.construct hardware_wf (by decide) hc) hl)
  exact ⟨_, .step hs rfl, rfl⟩

end Sys2Proof.Tests
end

section
/-! The parameters of this hardware (00_scope R5) and the state after reset that holds them. -/

namespace Sys2Proof.Proofs

open Sys2Proof.Machine

/-- MAX_PROGRAM on this hardware, from MEM_SIZE and PROGRAM_ORIGIN (00_scope R5). -/
@[simp] theorem hardware_maxProgram : Parameters.hardware.maxProgram = 3584 := rfl

/-- The font's sixteen glyphs of five bytes (00_scope R5, 10_state R40). -/
@[simp] theorem hardware_font_length : Parameters.hardware.font.length = 80 := rfl

@[simp] theorem reset_params : State.reset.params = Parameters.hardware := rfl

@[simp] theorem reset_config : State.reset.config = Configuration.default := rfl

/-- Settles O58: the widths and counts are constants, the other rows of the table are fields of
`Parameters.hardware`, which reset holds, and the configuration is the default one of 10_state R29. -/
theorem parametersOfThisHardware : Obligations.ParametersOfThisHardware := by
  unfold Obligations.ParametersOfThisHardware
  rw [reset_params, reset_config]
  refine ⟨rfl, rfl, rfl, rfl, rfl, rfl, rfl, ?values⟩
  case values =>
    exact ⟨rfl, rfl, rfl, rfl, hardware_maxProgram, rfl, rfl, hardware_font_length, rfl, rfl, rfl,
      rfl, rfl, rfl⟩

end Sys2Proof.Proofs
end

section
/-! Construction and load: when they answer a state, which state, and what each piece of it holds
(10_state R34, R40; 70_reset_and_hazards R262, R263). -/

namespace Sys2Proof.Proofs

open Sys2Proof.Machine Sys2Proof.Claims

theorem construct_ok {p : Parameters} {q : Bool} {hz : Int} {c : StackPolicy} {o : Bool} {d : Plane} {t : State}
    (h : construct p q hz c o d = .ok t) : 0 < hz ∧ t = Sized.State.initial p ⟨q, hz.toNat, c, o⟩ d := by
  unfold construct at h
  split_ifs at h with hz
  cases h
  exact ⟨not_le.1 hz, rfl⟩

theorem load_ok {bytes : List Byte} {s t : State} (h : load bytes s = .ok t) :
    s.params.programOrigin.toNat + bytes.length ≤ s.params.memSize ∧
      t = storeBytes s.params.programOrigin bytes (resetCore s) := by
  unfold load at h
  split_ifs at h with hlen
  cases h
  exact ⟨not_lt.1 hlen, rfl⟩

theorem unlisted_font (p : Parameters) (k : Nat) : Memory.unlisted p (p.fontBase.toNat + k) = p.font.getD k 0 := by
  rw [Memory.unlisted, if_pos (Nat.le_add_right _ _), Nat.add_sub_cancel_left]

theorem unlisted_outside_font {p : Parameters} {a : Nat}
    (h : a < p.fontBase.toNat ∨ p.fontBase.toNat + p.font.length ≤ a) : Memory.unlisted p a = 0 := by
  unfold Memory.unlisted
  split_ifs with hb
  · exact List.getD_eq_default _ _ (by omega)
  · rfl

/-- The bytes of a program that fits stand from the origin on, unreduced (70_reset_and_hazards R262). -/
theorem decodeAddr_program {p : Parameters} (hp : p.Wf) {len k : Nat} (hlen : p.programOrigin.toNat + len ≤ p.memSize)
    (hk : k < len) : decodeAddr p (p.programOrigin + BitVec.ofNat 16 k) = p.programOrigin.toNat + k := by
  rw [decodeAddr_add hp, Nat.mod_eq_of_lt (by omega)]

/-- A program that fits leaves every address outside it (70_reset_and_hazards R262). -/
theorem load_lookup_outside {p : Parameters} (hp : p.Wf) {bytes : List Byte} {a : Nat}
    (hlen : p.programOrigin.toNat + bytes.length ≤ p.memSize) (ha : OutsideProgram p bytes.length a) :
    (Memory.writeRun [] p p.programOrigin bytes).lookup p a = Memory.unlisted p a := by
  refine Memory.lookup_writeRun_other [] p _ bytes a fun k hk => ?_
  rw [decodeAddr_program hp hlen hk]
  rcases ha with ha | ha <;> omega

/-- A program that fits stands at the origin (70_reset_and_hazards R262). -/
theorem load_lookup_program {p : Parameters} (hp : p.Wf) {bytes : List Byte} {k : Nat}
    (hlen : p.programOrigin.toNat + bytes.length ≤ p.memSize) (hk : k < bytes.length) :
    (Memory.writeRun [] p p.programOrigin bytes).lookup p (p.programOrigin.toNat + k) = bytes.getD k 0 := by
  rw [← decodeAddr_program hp hlen hk, Memory.lookup_writeRun_at [] p hp _ bytes (by omega) k hk,
    List.getD_eq_getElem _ _ hk]

/-- The initial state holds the table of 10_state R34. -/
theorem asReset_initial (p : Parameters) (c : Configuration) (d : Plane) :
    AsReset p c [] (Sized.State.initial p c d) where
  V r := by simp [Sized.State.initial]
  pc := BitVec.setWidth_eq _
  I := rfl
  stack j := by simp [Sized.State.initial]
  sp := rfl
  timers := ⟨rfl, rfl⟩
  font k _ _ _ := unlisted_font p k
  program k hk := absurd hk (Nat.not_lt_zero k)
  rest _ _ ha _ := unlisted_outside_font ha
  fault := rfl
  draw := rfl
  config := ⟨rfl, rfl⟩

/-- A loaded program changes the memory of that table alone. -/
theorem asReset_load {s : State} {bytes : List Byte} (hp : s.params.Wf)
    (hlen : s.params.programOrigin.toNat + bytes.length ≤ s.params.memSize) :
    AsReset s.params s.config bytes (storeBytes s.params.programOrigin bytes (resetCore s)) :=
  { asReset_initial s.params s.config s.display with
    font := fun k _ _ ha => (load_lookup_outside hp hlen ha).trans (unlisted_font _ k)
    program := fun _ hk => load_lookup_program hp hlen hk
    rest := fun _ _ hf ha => (load_lookup_outside hp hlen ha).trans (unlisted_outside_font hf) }

/-- Settles O51: construction answers the initial state, and a load that state with the program in memory. -/
theorem resetValues : Obligations.ResetValues := by
  unfold Obligations.ResetValues
  refine ⟨asReset_initial _ _ _, rfl, ?construct, ?load⟩
  case construct =>
    intro p q hz c o d t h
    obtain ⟨-, rfl⟩ := construct_ok h
    exact asReset_initial _ _ _
  case load =>
    intro bytes s t hp h
    obtain ⟨hlen, rfl⟩ := load_ok h
    exact asReset_load hp hlen

/-- FONT_BASE is 0 on this hardware, so the font's bytes are the first of memory (10_state R40). -/
theorem byteAt_reset (a : Nat) : byteAt State.reset a = Parameters.hardware.font.getD a 0 := by
  have h := unlisted_font Parameters.hardware a
  rwa [show Parameters.hardware.fontBase.toNat + a = a from Nat.zero_add a] at h

/-- Settles O50: memory after reset reads as the font, which is compared with the table byte by byte. -/
theorem fontTable : Obligations.FontTable := by
  unfold Obligations.FontTable
  simp only [byteAt_reset]
  decide

end Sys2Proof.Proofs
end

section
/-! What a meaning can do to memory, the stack, `pc` and the display, said once, and what follows for the
bounds and canonical forms of the invariant (10_state R22, R25, R33; 60_exceptions R247). -/

namespace Sys2Proof.Proofs

open Sys2Proof.Machine

/-! The meanings that branch: what each branch answers. -/

theorem exec_ret_cases {s t : State} (h : exec .ret s = .next t) :
    ((s.sp = 0 ∧ s.config.stackCheck = .strict) ∧ t = raiseFault .stackUnderflow s) ∨
    (¬(s.sp = 0 ∧ s.config.stackCheck = .strict) ∧
      t = writeSp (s.sp - 1) (writePc (readStack s s.sp) s)) := by
  rw [exec, execRet] at h
  split_ifs at h with hc <;> cases h
  · exact .inl ⟨hc, rfl⟩
  · exact .inr ⟨hc, rfl⟩

theorem exec_call_cases {nnn : Addr} {s t : State} (h : exec (.call nnn) s = .next t) :
    ((s.sp = 15 ∧ s.config.stackCheck = .strict) ∧ t = raiseFault .stackOverflow s) ∨
    (¬(s.sp = 15 ∧ s.config.stackCheck = .strict) ∧
      t = writePc (zext nnn) (writeStack (s.sp + 1) s.pc (writeSp (s.sp + 1) s))) := by
  rw [exec, execCall] at h
  split_ifs at h with hc <;> cases h
  · exact .inl ⟨hc, rfl⟩
  · exact .inr ⟨hc, rfl⟩

theorem exec_ldVxK_cases {x : Reg} {s t : State} (h : exec (.ldVxK x) s = .next t) :
    (s.input.key = none ∧ t = writePc (s.pc - 2) s) ∨
    ∃ k, s.input.key = some k ∧ t = writeReg x k s := by
  cases h
  cases hk : s.input.key with
  | none => exact .inl ⟨rfl, rfl⟩
  | some k => exact .inr ⟨k, rfl, congrArg (writeReg x · s) (zext_self k)⟩

/-- What an instruction can write: a run of bytes through the decoder, the advanced `pc` as a stack entry, a
masked `pc` or the address of a fault, and the plane cleared or toggled by a sprite. -/
structure ExecWrites (s t : State) : Prop where
  mem     : t.mem = s.mem ∨ ∃ a bs, t.mem = s.mem.writeRun s.params a bs
  stack   : t.stack = s.stack ∨ ∃ j : Fin 16, t.stack = s.stack.set j s.pc
  pc      : t.pc = s.pc ∨ t.pc = s.insnAddr ∨ ∃ a, t.pc = a &&& s.params.addrMask
  display : t.display = s.display ∨ t.display = Plane.blank ∨
    ∃ px py n, t.display = (s.display.toggleAll (spritePixels s px py n)).1

theorem skipIf_writes (c : Bool) (s : State) : ExecWrites s (skipIf c s) := by
  cases c with
  | false => exact ⟨.inl rfl, .inl rfl, .inl rfl, .inl rfl⟩
  | true => exact ⟨.inl rfl, .inl rfl, .inr (.inr ⟨_, skipIf_true_pc s⟩), .inl rfl⟩

theorem raiseFault_writes (c : FaultCode) (s : State) : ExecWrites s (raiseFault c s) :=
  ⟨.inl rfl, .inl rfl, .inr (.inl (raiseFault_pc c s)), .inl rfl⟩

/-- Every meaning writes within `ExecWrites`. -/
theorem exec_writes {i : Instr} {s t : State} (h : exec i s = .next t) : ExecWrites s t := by
  cases i with
  | cls => cases h; exact ⟨.inl rfl, .inl rfl, .inl rfl, .inr (.inl rfl)⟩
  | drw x y n => cases h; exact ⟨.inl rfl, .inl rfl, .inl rfl, .inr (.inr ⟨_, _, _, rfl⟩)⟩
  | ldBVx x => cases h; exact ⟨.inr ⟨_, _, rfl⟩, .inl rfl, .inl rfl, .inl rfl⟩
  | ldMemVx x => cases h; exact ⟨.inr ⟨_, _, rfl⟩, .inl rfl, .inl rfl, .inl rfl⟩
  | ret =>
    rcases exec_ret_cases h with ⟨-, rfl⟩ | ⟨-, rfl⟩
    · exact raiseFault_writes _ s
    · exact ⟨.inl rfl, .inl rfl, .inr (.inr ⟨_, rfl⟩), .inl rfl⟩
  | call nnn =>
    rcases exec_call_cases h with ⟨-, rfl⟩ | ⟨-, rfl⟩
    · exact raiseFault_writes _ s
    · exact ⟨.inl rfl, .inr ⟨_, rfl⟩, .inr (.inr ⟨_, rfl⟩), .inl rfl⟩
  | jp nnn => cases h; exact ⟨.inl rfl, .inl rfl, .inr (.inr ⟨_, rfl⟩), .inl rfl⟩
  | jpV0 nnn => cases h; exact ⟨.inl rfl, .inl rfl, .inr (.inr ⟨_, rfl⟩), .inl rfl⟩
  | ldVxK x =>
    rcases exec_ldVxK_cases h with ⟨-, rfl⟩ | ⟨k, -, rfl⟩
    · exact ⟨.inl rfl, .inl rfl, .inr (.inr ⟨_, rfl⟩), .inl rfl⟩
    · exact ⟨.inl rfl, .inl rfl, .inl rfl, .inl rfl⟩
  | seImm x nn => cases h; exact skipIf_writes _ s
  | sneImm x nn => cases h; exact skipIf_writes _ s
  | seReg x y => cases h; exact skipIf_writes _ s
  | sneReg x y => cases h; exact skipIf_writes _ s
  | skp x => cases h; exact skipIf_writes _ s
  | sknp x => cases h; exact skipIf_writes _ s
  | ldVxMem x => obtain rfl := Host.Outcome.next.inj h; constructor <;> left <;> simp
  | _ => cases h; exact ⟨.inl rfl, .inl rfl, .inl rfl, .inl rfl⟩

theorem ExecWrites.mem_wf {s t : State} (h : ExecWrites s t) (hp : s.params.Wf) (hm : s.mem.wf s.params) :
    t.mem.wf s.params := by
  rcases h.mem with he | ⟨a, bs, he⟩ <;> rw [he]
  · exact hm
  · exact Memory.wf_writeRun _ _ hp a bs hm

theorem ExecWrites.pc_lt {s t : State} (h : ExecWrites s t) (hp : s.params.Wf)
    (hpc : s.pc.toNat < s.params.memSize) (ha : s.insnAddr.toNat < s.params.memSize) :
    t.pc.toNat < s.params.memSize := by
  rcases h.pc with he | he | ⟨a, he⟩ <;> rw [he]
  · exact hpc
  · exact ha
  · exact masked_lt hp a

theorem ExecWrites.stack_lt {s t : State} (h : ExecWrites s t) (hpc : s.pc.toNat < s.params.memSize)
    (hs : ∀ k : Fin 16, s.stack[k].toNat < s.params.memSize) (k : Fin 16) :
    t.stack[k].toNat < s.params.memSize := by
  rcases h.stack with he | ⟨j, he⟩ <;> rw [he]
  · exact hs k
  · rw [getElem_set_stack]
    split_ifs
    · exact hpc
    · exact hs k

theorem plane_blank_wf (p : Parameters) : Plane.blank.wf p := ⟨.nil, fun _ h => absurd h List.not_mem_nil⟩

theorem ExecWrites.display_wf {s t : State} (h : ExecWrites s t) (hp : s.params.Wf)
    (hd : s.display.wf s.params) : t.display.wf s.params := by
  rcases h.display with he | he | ⟨px, py, n, he⟩ <;> rw [he]
  · exact hd
  · exact plane_blank_wf _
  · exact Plane.wf_toggleAll _ _ _ (spritePixels_inside s px py n hp) hd

end Sys2Proof.Proofs
end

section
/-! The invariant of the machine: it holds after construction, every step keeps it, and so do the host's
actions (10_state R22, R25; 70_reset_and_hazards R260 to R263). -/

namespace Sys2Proof.Proofs

open Sys2Proof.Machine

theorem memory_nil_wf (p : Parameters) : Memory.wf [] p := ⟨.nil, fun _ h => absurd h List.not_mem_nil⟩

/-- The table of 10_state R34 meets the invariant, with parameters that fit together, a positive clock
frequency and a plane in its form. -/
theorem inv_initial {p : Parameters} {c : Configuration} {d : Plane} (hp : p.Wf) (hc : 0 < c.clockHz)
    (hd : d.wf p) : Inv (Sized.State.initial p c d) where
  memory := memory_nil_wf p
  pc := by simpa [Sized.State.initial] using hp.origin
  stack j := by
    have hpos : 0 < p.memSize := by have := hp.mask; omega
    simpa [Sized.State.initial] using hpos
  draw := rfl
  clock := hc
  params := hp
  display := hd
  key k h := by cases h
  fault r h := by cases h

/-- The invariant says nothing of the halted flag, the samples to come and the outputs. -/
theorem inv_outside {s : State} (h : Inv s) (b : Bool) (l : List TickInput) (n : Nat) (o : Outputs) :
    Inv { s with halted := b, pending := l, sampleNo := n, out := o } :=
  ⟨h.memory, h.pc, h.stack, h.draw, h.clock, h.params, h.display, h.key, h.fault⟩

theorem inv_noTick {s : State} (h : Inv s) : Inv (noTick s) := inv_outside h _ _ _ _

theorem inv_setHalted {s : State} (b : Bool) (h : Inv s) : Inv (setHalted b s) := inv_outside h _ _ _ _

theorem inv_supplyInput {s : State} (sample : TickInput) (h : Inv s) : Inv (supplyInput sample s) :=
  inv_outside h _ _ _ _

theorem inv_resetCore {s : State} (h : Inv s) : Inv (resetCore s) :=
  inv_outside (inv_initial h.params h.clock h.display) _ _ _ _

theorem inv_storeBytes {s : State} (a : Word) (bs : List Byte) (h : Inv s) : Inv (storeBytes a bs s) :=
  ⟨Memory.wf_writeRun _ _ h.params a bs h.memory, h.pc, h.stack, h.draw, h.clock, h.params, h.display, h.key,
    h.fault⟩

theorem inv_load {s t : State} {bytes : List Byte} (h : Inv s) (hl : load bytes s = .ok t) : Inv t := by
  obtain ⟨-, rfl⟩ := load_ok hl
  exact inv_storeBytes _ _ (inv_resetCore h)

/-- The DECODE fault of a tick keeps the invariant: `pc` holds the tick's address, and the word it latches
does not decode (60_exceptions R233, R239). -/
theorem inv_decodeFault {s : State} {e : DecodeError} (h : Inv s) (he : disassemble (tickWord s) = .error e) :
    Inv (raiseFault .decode (beginTick s)) where
  memory := h.memory
  pc := h.pc
  stack := h.stack
  draw := h.draw
  clock := h.clock
  params := h.params
  display := h.display
  key := nextInput_key_lt s
  fault r hr := by
    cases hr
    exact ⟨rfl, e, he⟩

/-- The draw effect does not outlive a completed tick (40_execution_cycle R109). -/
theorem endTick_draw {s : State} (h : s.fault ≠ none → s.draw = false) : (endTick s).draw = false := by
  cases hf : s.fault with
  | none => rw [endTick_of_none hf, notifyFrame_draw]
  | some r => rw [endTick_of_some hf, h (by simp [hf])]

/-- A fault of step 5 is explained by the state it stands in, and its tick has set no draw effect
(60_exceptions R232, R239). -/
theorem exec_fault_explained {i : Instr} {s u : State} {r : FaultRecord} (hd : disassemble s.insnWord = .ok i)
    (hf : s.fault = none) (h : exec i s = .next u) (hr : u.fault = some r) :
    FaultExplained u r ∧ u.draw = s.draw := by
  rcases exec_fault h with ⟨rfl, hsp, hc, rfl⟩ | ⟨⟨n, rfl⟩, hsp, hc, rfl⟩ | ⟨hkeep, -⟩
  · cases hr
    exact ⟨⟨rfl, hsp, hc, hd⟩, rfl⟩
  · cases hr
    exact ⟨⟨rfl, hsp, hc, n, hd⟩, rfl⟩
  · rw [hkeep, hf] at hr
    cases hr

/-- A tick whose word decodes keeps the invariant. -/
theorem inv_endTick_exec {s u : State} {i : Instr} (h : Inv s) (hrun : Running s)
    (hd : disassemble (tickWord s) = .ok i) (hu : exec i (advance (observe i (beginTick s))) = .next u) :
    Inv (endTick u) := by
  have keeps := exec_keeps hu
  have writes := exec_writes hu
  have faulted : ∀ r, u.fault = some r → FaultExplained u r ∧ u.draw = false :=
    fun r hr => exec_fault_explained (s := advance (observe i (beginTick s))) hd hrun.2 hu hr
  have hpc : (advance (observe i (beginTick s))).pc.toNat < s.params.memSize := masked_lt h.params _
  have hparams : u.params = s.params := keeps.params
  constructor
  case memory => simpa [hparams] using writes.mem_wf h.params h.memory
  case pc => simpa [hparams] using writes.pc_lt h.params hpc h.pc
  case stack => simpa [hparams] using writes.stack_lt hpc h.stack
  case draw =>
    refine endTick_draw fun hf => ?_
    obtain ⟨r, hr⟩ := Option.ne_none_iff_exists'.1 hf
    exact (faulted r hr).2
  case clock => simpa [keeps.config] using h.clock
  case params => simpa [hparams] using h.params
  case display => simpa [hparams] using writes.display_wf h.params h.display
  case key => simpa [hparams, keeps.input] using nextInput_key_lt s
  case fault =>
    intro r hr
    rw [endTick_fault] at hr
    rw [endTick_of_some hr]
    exact (faulted r hr).1

/-- Settles O56: a step without a tick leaves the core, a DECODE fault restores `pc`, and a decoded instruction
writes within `ExecWrites`. -/
theorem stepKeepsInvariant : Obligations.StepKeepsInvariant := by
  unfold Obligations.StepKeepsInvariant
  intro s t h hstep
  rcases step_cases hstep with ⟨-, rfl⟩ | ⟨-, ⟨e, he⟩, rfl⟩ | ⟨hrun, i, u, hd, hu, rfl⟩
  · exact inv_noTick h
  · exact inv_decodeFault h he
  · exact inv_endTick_exec h hrun hd hu

/-- Settles O55: reset is the table of 10_state R34 with this hardware's parameters. -/
theorem resetMeetsInvariant : Obligations.ResetMeetsInvariant := by
  unfold Obligations.ResetMeetsInvariant
  exact inv_initial hardware_wf (by decide) (plane_blank_wf _)

/-- Settles O57, by induction on the history. -/
theorem reachableMeetsInvariant : Obligations.ReachableMeetsInvariant := by
  unfold Obligations.ReachableMeetsInvariant
  intro s hs
  induction hs with
  | construct hp hd hc =>
    obtain ⟨hz, rfl⟩ := construct_ok hc
    exact inv_initial hp (by simpa using hz) hd
  | step _ hstep ih => exact stepKeepsInvariant _ _ ih hstep
  | reset _ ih => exact inv_resetCore ih
  | load _ hl ih => exact inv_load ih hl
  | halt _ ih => exact inv_setHalted _ ih
  | supply _ ih => exact inv_supplyInput _ ih

end Sys2Proof.Proofs
end

section
/-! The configuration, the program counter and the flag register: what no step, and no instruction but the
ones listed, changes (10_state R21, R23, R29). -/

namespace Sys2Proof.Proofs

open Sys2Proof.Machine Sys2Proof.Claims

theorem step_params_config {s t : State} (h : step s = .next t) : t.params = s.params ∧ t.config = s.config := by
  rcases step_cases h with ⟨-, rfl⟩ | ⟨-, -, rfl⟩ | ⟨-, i, u, -, hu, rfl⟩
  · exact ⟨rfl, rfl⟩
  · exact ⟨rfl, rfl⟩
  · have keeps := exec_keeps hu
    exact ⟨by simpa using keeps.params, by simpa using keeps.config⟩

/-- Settles O39: construction stores its arguments, and each operation after it copies both fields. -/
theorem configurationIsImmutable : Obligations.ConfigurationIsImmutable := by
  unfold Obligations.ConfigurationIsImmutable
  refine ⟨?construct, fun s t => step_params_config, fun s => ⟨rfl, rfl⟩, ?load⟩
  case construct =>
    intro p q hz c o d t h
    obtain ⟨-, rfl⟩ := construct_ok h
    exact ⟨rfl, rfl⟩
  case load =>
    intro s t bytes h
    obtain ⟨-, rfl⟩ := load_ok h
    exact ⟨rfl, rfl⟩

/-- The instructions that write `pc` (41_control_flow; 44_display_input_timers R202, R203, R205). -/
def WritesPc (i : Instr) : Prop :=
  match i with
  | .ret | .jp _ | .call _ | .jpV0 _ | .seImm _ _ | .sneImm _ _ | .seReg _ _ | .sneReg _ _
  | .skp _ | .sknp _ | .ldVxK _ => True
  | _ => False

/-- Every other instruction leaves the advanced `pc` (10_state R23). -/
theorem exec_pc_of_not_writesPc {i : Instr} {s t : State} (hi : ¬WritesPc i) (h : exec i s = .next t) :
    t.pc = s.pc := by
  cases i with
  | ret | jp | call | jpV0 | seImm | sneImm | seReg | sneReg | skp | sknp | ldVxK => exact absurd trivial hi
  | ldVxMem x => obtain rfl := Host.Outcome.next.inj h; simp
  | _ => cases h; rfl

/-- Settles O35: step 4 advances `pc`, and neither these instructions nor steps 6 and 7 write it again. -/
theorem pcAdvancesByTwo : Obligations.PcAdvancesByTwo := by
  unfold Obligations.PcAdvancesByTwo
  intro s t i hrun hd hstep hret hjp hcall hjpV0 hseImm hsneImm hseReg hsneReg hskp hsknp hldVxK
  have hi : ¬WritesPc i := by
    intro hw
    cases i with
    | ret => exact hret rfl
    | jp n => exact hjp n rfl
    | call n => exact hcall n rfl
    | jpV0 n => exact hjpV0 n rfl
    | seImm x n => exact hseImm x n rfl
    | sneImm x n => exact hsneImm x n rfl
    | seReg x y => exact hseReg x y rfl
    | sneReg x y => exact hsneReg x y rfl
    | skp x => exact hskp x rfl
    | sknp x => exact hsknp x rfl
    | ldVxK x => exact hldVxK x rfl
    | _ => exact hw
  rw [step_of_ok hrun hd] at hstep
  obtain ⟨u, hu⟩ := exec_next i (advance (observe i (beginTick s)))
  simp only [runInstr, hu] at hstep
  cases hstep
  rw [endTick_pc, exec_pc_of_not_writesPc hi hu]
  rfl

@[simp] theorem skipIf_V (c : Bool) (s : State) : (skipIf c s).V = s.V := by rw [skipIf_frame]

theorem flagByte_eq_zero_or_one (f : Bool) : (flagByte f : Byte) = 0 ∨ (flagByte f : Byte) = 1 := by
  cases f
  · exact .inl rfl
  · exact .inr rfl

/-- After a result and a flag, VF is 0 or 1 whatever the destination (10_state R21). -/
theorem writeResultAndFlag_VF (x : Reg) (v : Byte) (f : Bool) (s : State) :
    (writeResultAndFlag x v f s).V[s.params.flagReg] = 0 ∨ (writeResultAndFlag x v f s).V[s.params.flagReg] = 1 := by
  rw [writeResultAndFlag_getElem, if_pos rfl]
  exact flagByte_eq_zero_or_one f

/-- A write of another register leaves VF. -/
theorem writeReg_VF_of_ne {x : Reg} {s : State} (v : Byte) (hx : x ≠ s.params.flagReg) :
    (writeReg x v s).V[s.params.flagReg] = s.V[s.params.flagReg] := by
  rw [writeReg_V, getElem_set_reg, if_neg hx.symm]

/-- A block load that ends below VF leaves it (43_index_memory R185). -/
theorem loadRegs_VF_of_lt {x : Reg} {s : State} (hx : x < s.params.flagReg) :
    (loadRegs x s).V[s.params.flagReg] = s.V[s.params.flagReg] := by
  rw [loadRegs_V, Fin.getElem_fin, Vector.getElem_ofFn, if_neg (not_le.2 hx)]

/-- Settles O41, by the way each instruction writes registers: with a flag, one register alone, a block, or not at
all. -/
theorem flagRegisterWriters : Obligations.FlagRegisterWriters := by
  unfold Obligations.FlagRegisterWriters
  intro i s t h
  cases i with
  | addReg x y => cases h; exact writeResultAndFlag_VF x _ _ s
  | sub x y => cases h; exact writeResultAndFlag_VF x _ _ s
  | subn x y => cases h; exact writeResultAndFlag_VF x _ _ s
  | shr x y => cases h; exact writeResultAndFlag_VF x _ _ s
  | shl x y => cases h; exact writeResultAndFlag_VF x _ _ s
  | drw x y n =>
    cases h
    exact (writeFlag_VF _ (dispToggle _ s)).symm ▸ flagByte_eq_zero_or_one _
  | ldImm x nn => cases h; exact writeReg_VF_of_ne _
  | addImm x nn => cases h; exact writeReg_VF_of_ne _
  | ldReg x y => cases h; exact writeReg_VF_of_ne _
  | or x y => cases h; exact writeReg_VF_of_ne _
  | and x y => cases h; exact writeReg_VF_of_ne _
  | xor x y => cases h; exact writeReg_VF_of_ne _
  | rnd x nn => cases h; exact writeReg_VF_of_ne _
  | ldVxDt x => cases h; exact writeReg_VF_of_ne _
  | ldVxK x =>
    rcases exec_ldVxK_cases h with ⟨-, rfl⟩ | ⟨k, -, rfl⟩
    · exact fun _ => rfl
    · exact writeReg_VF_of_ne k
  | ldVxMem x => obtain rfl := Host.Outcome.next.inj h; exact loadRegs_VF_of_lt
  | ret => rcases exec_ret_cases h with ⟨-, rfl⟩ | ⟨-, rfl⟩ <;> rfl
  | call nnn => rcases exec_call_cases h with ⟨-, rfl⟩ | ⟨-, rfl⟩ <;> rfl
  | seImm x nn => cases h; exact skipIf_V _ s
  | sneImm x nn => cases h; exact skipIf_V _ s
  | seReg x y => cases h; exact skipIf_V _ s
  | sneReg x y => cases h; exact skipIf_V _ s
  | skp x => cases h; exact skipIf_V _ s
  | sknp x => cases h; exact skipIf_V _ s
  | _ => cases h; rfl

end Sys2Proof.Proofs
end

section
/-! Two runs of one instruction from states that differ in one register it does not read: in the bits of `I`
above ADDR_MASK (10_state R24), and in `ST` (10_state R27). -/

namespace Sys2Proof.Proofs

open Sys2Proof.Machine

/-- A byte an instruction reads through `I` depends on the masked `I` alone. -/
theorem memRead_effAddr_writeI {s : State} {j : Word} (hp : s.params.Wf)
    (hj : decodeAddr s.params j = decodeAddr s.params s.I) (k : Nat) :
    memRead (writeI j s) (effAddr (writeI j s) k) = memRead s (effAddr s k) :=
  congrArg (s.mem.lookup s.params) (decodeAddr_add_congr hp hj k)

theorem spritePixels_writeI {s : State} {j : Word} (hp : s.params.Wf)
    (hj : decodeAddr s.params j = decodeAddr s.params s.I) (px py n : Nat) :
    spritePixels (writeI j s) px py n = spritePixels s px py n := by
  simp only [spritePixels, memRead_effAddr_writeI hp hj, writeI_params]

theorem loadRegs_writeI {s : State} {j : Word} (hp : s.params.Wf)
    (hj : decodeAddr s.params j = decodeAddr s.params s.I) (x : Reg) :
    loadRegs x (writeI j s) = writeI j (loadRegs x s) := by
  simp only [loadRegs, memRead_effAddr_writeI hp hj]
  rfl

theorem storeBytes_writeI {s : State} {j : Word} (hp : s.params.Wf)
    (hj : decodeAddr s.params j = decodeAddr s.params s.I) (bs : List Byte) :
    storeBytes j bs (writeI j s) = writeI j (storeBytes s.I bs s) :=
  congrArg (fun m => ({ writeI j s with mem := m } : State)) (Memory.writeRun_congr s.mem s.params hp hj bs)

theorem skipIf_writeI (c : Bool) (j : Word) (s : State) : skipIf c (writeI j s) = writeI j (skipIf c s) := by
  cases c <;> rfl

/-- With another `I` that decodes to the same address, an instruction leads to the same state but for `I`
(10_state R24). -/
theorem exec_writeI {i : Instr} {s t : State} {j : Word} (hp : s.params.Wf)
    (hj : decodeAddr s.params j = decodeAddr s.params s.I) (h : exec i s = .next t) :
    ∃ k, exec i (writeI j s) = .next (writeI k t) := by
  cases i with
  | drw x y n =>
    obtain rfl := Host.Outcome.next.inj h
    refine ⟨j, ?_⟩
    rw [exec, execDrw, spritePixels_writeI hp hj]
    rfl
  | ldVxMem x =>
    obtain rfl := Host.Outcome.next.inj h
    refine ⟨j + BitVec.ofNat 16 (x.val + 1), ?_⟩
    rw [exec, execLdVxMem, loadRegs_writeI hp hj]
    rfl
  | ldMemVx x =>
    obtain rfl := Host.Outcome.next.inj h
    refine ⟨j + BitVec.ofNat 16 (x.val + 1), ?_⟩
    rw [exec, execLdMemVx, writeI_I, zext_self, storeBytes_writeI hp hj]
    rfl
  | ldBVx x =>
    obtain rfl := Host.Outcome.next.inj h
    refine ⟨j, ?_⟩
    rw [exec, execLdBVx, writeI_I, zext_self, storeBytes_writeI hp hj]
    rfl
  | ret =>
    refine ⟨j, ?_⟩
    rw [exec, execRet] at h ⊢
    rw [writeI_sp, writeI_config]
    split_ifs at h ⊢ <;> cases h <;> rfl
  | call nnn =>
    refine ⟨j, ?_⟩
    rw [exec, execCall] at h ⊢
    rw [writeI_sp, writeI_config]
    split_ifs at h ⊢ <;> cases h <;> rfl
  | seImm x nn => cases h; exact ⟨j, congrArg Host.Outcome.next (skipIf_writeI _ j s)⟩
  | sneImm x nn => cases h; exact ⟨j, congrArg Host.Outcome.next (skipIf_writeI _ j s)⟩
  | seReg x y => cases h; exact ⟨j, congrArg Host.Outcome.next (skipIf_writeI _ j s)⟩
  | sneReg x y => cases h; exact ⟨j, congrArg Host.Outcome.next (skipIf_writeI _ j s)⟩
  | skp x => cases h; exact ⟨j, congrArg Host.Outcome.next (skipIf_writeI _ j s)⟩
  | sknp x => cases h; exact ⟨j, congrArg Host.Outcome.next (skipIf_writeI _ j s)⟩
  | ldVxK x =>
    refine ⟨j, ?_⟩
    rw [exec, execLdVxK] at h ⊢
    rw [writeI_input]
    split at h <;> cases h <;> rfl
  | _ => cases h; exact ⟨_, rfl⟩

/-- Settles O23: both runs end in states that differ in `I` alone. -/
theorem indexTopBitsSelectNothing : Obligations.IndexTopBitsSelectNothing := by
  unfold Obligations.IndexTopBitsSelectNothing
  intro i s j hp hj
  obtain ⟨t, ht⟩ := exec_next i s
  obtain ⟨k, hk⟩ := exec_writeI hp (congrArg BitVec.toNat hj) ht
  exact ⟨t, _, ht, hk, rfl, rfl, rfl, rfl, rfl⟩

theorem skipIf_writeST (c : Bool) (v : Byte) (s : State) : skipIf c (writeST v s) = writeST v (skipIf c s) := by
  cases c <;> rfl

/-- With another `ST` an instruction leads to the same state but for `ST` (10_state R27). -/
theorem exec_writeST {i : Instr} {s t : State} (v : Byte) (h : exec i s = .next t) :
    ∃ v', exec i (writeST v s) = .next (writeST v' t) := by
  cases i with
  | ret =>
    refine ⟨v, ?_⟩
    rw [exec, execRet] at h ⊢
    rw [writeST_sp, writeST_config]
    split_ifs at h ⊢ <;> cases h <;> rfl
  | call nnn =>
    refine ⟨v, ?_⟩
    rw [exec, execCall] at h ⊢
    rw [writeST_sp, writeST_config]
    split_ifs at h ⊢ <;> cases h <;> rfl
  | seImm x nn => cases h; exact ⟨v, congrArg Host.Outcome.next (skipIf_writeST _ v s)⟩
  | sneImm x nn => cases h; exact ⟨v, congrArg Host.Outcome.next (skipIf_writeST _ v s)⟩
  | seReg x y => cases h; exact ⟨v, congrArg Host.Outcome.next (skipIf_writeST _ v s)⟩
  | sneReg x y => cases h; exact ⟨v, congrArg Host.Outcome.next (skipIf_writeST _ v s)⟩
  | skp x => cases h; exact ⟨v, congrArg Host.Outcome.next (skipIf_writeST _ v s)⟩
  | sknp x => cases h; exact ⟨v, congrArg Host.Outcome.next (skipIf_writeST _ v s)⟩
  | ldVxK x =>
    refine ⟨v, ?_⟩
    rw [exec, execLdVxK] at h ⊢
    rw [writeST_input]
    split at h <;> cases h <;> rfl
  | ldVxMem x => obtain rfl := Host.Outcome.next.inj h; exact ⟨_, rfl⟩
  | _ => cases h; exact ⟨_, rfl⟩

/-- Settles O42: both runs end in states that differ in `ST` alone. -/
theorem noInstructionReadsSoundTimer : Obligations.NoInstructionReadsSoundTimer := by
  unfold Obligations.NoInstructionReadsSoundTimer
  intro i s t v h
  obtain ⟨v', hv'⟩ := exec_writeST v h
  exact ⟨_, hv', rfl⟩

end Sys2Proof.Proofs
end

section
/-! Memory and the fetch: one byte's read after a write, the word at `pc` after a store, and the instructions
that write memory or the stack (20_memory R51 to R62). -/

namespace Sys2Proof.Proofs

open Sys2Proof.Machine

/-! Bytes: what a read gives and a write leaves. -/

theorem memRead_eq_byteAt (s : State) (a : Word) : memRead s a = byteAt s (decodeAddr s.params a) := rfl

theorem byteAt_memWrite (a : Word) (v : Byte) (s : State) (b : Nat) :
    byteAt (memWrite a v s) b = if b = decodeAddr s.params a then v else byteAt s b :=
  (Memory.lookup_write s.mem s.params a v b).trans (if_congr eq_comm rfl rfl)

theorem memWrite_frame (a : Word) (v : Byte) (s : State) : memWrite a v s = { s with mem := (memWrite a v s).mem } :=
  rfl

theorem decodeAddr_effAddr {s : State} (hp : s.params.Wf) (k : Nat) :
    decodeAddr s.params (effAddr s k) = (s.I.toNat + k) % s.params.memSize :=
  decodeAddr_add hp s.I k

/-- Settles O16: the read is the definition, the write is a store into the memory list, and masking an address is
reduction modulo MEM_SIZE, 0x1000 for the parameters of this hardware. -/
theorem memoryAccess : Obligations.MemoryAccess := by
  unfold Obligations.MemoryAccess
  refine ⟨memRead_eq_byteAt, fun s a v b => ⟨byteAt_memWrite a v s b, memWrite_frame a v s⟩,
    fun _ k hp => decodeAddr_effAddr hp k, ?hardware⟩
  case hardware =>
    intro s k hs
    rw [decodeAddr_effAddr (hs ▸ hardware_wf), hs]
    rfl

/-! The word at `pc`. -/

theorem decodeAddr_add_one {p : Parameters} (hp : p.Wf) (a : Word) :
    decodeAddr p (a + 1) = (a.toNat + 1) % p.memSize :=
  decodeAddr_add hp a 1

/-- Memory holds more than one byte, so the two bytes of a word stand at different addresses. -/
theorem decodeAddr_add_one_ne {p : Parameters} (hp : p.Wf) (a : Word) : decodeAddr p (a + 1) ≠ decodeAddr p a := by
  intro h
  have hsize := hp.block
  exact absurd (decodeAddr_add_inj hp a (j := 1) (k := 0) (by omega) (by omega) (h.trans (by simp))) (by decide)

theorem toNat_append_byte (hi lo : Byte) : (hi ++ lo).toNat = 256 * hi.toNat + lo.toNat := by
  rw [BitVec.toNat_append, ← Nat.shiftLeft_add_eq_or_of_lt lo.isLt, Nat.shiftLeft_eq, Nat.mul_comm]

theorem append_extractLsb'_bytes (op : Word) : op.extractLsb' 8 8 ++ op.extractLsb' 0 8 = op := by
  apply BitVec.eq_of_toNat_eq
  rw [toNat_append_byte, BitVec.extractLsb'_toNat, BitVec.extractLsb'_toNat, Nat.shiftRight_eq_div_pow]
  have := op.isLt
  omega

/-- A read after a write, both through the decoder (20_memory R51, R56). -/
theorem memRead_memWrite (a b : Word) (v : Byte) (s : State) :
    memRead (memWrite a v s) b = if decodeAddr s.params b = decodeAddr s.params a then v else memRead s b :=
  byteAt_memWrite a v s _

theorem fetchWord_memWrite_first {s : State} {a : Word} (v : Byte) (hp : s.params.Wf)
    (h : decodeAddr s.params a = decodeAddr s.params s.pc) :
    fetchWord (memWrite a v s) = v ++ memRead s (s.pc + 1) := by
  rw [fetchWord_eq, memWrite_pc, memRead_memWrite, memRead_memWrite, if_pos h.symm,
    if_neg (h ▸ decodeAddr_add_one_ne hp s.pc)]

theorem fetchWord_memWrite_second {s : State} {a : Word} (v : Byte) (hp : s.params.Wf)
    (h : decodeAddr s.params a = decodeAddr s.params (s.pc + 1)) :
    fetchWord (memWrite a v s) = memRead s s.pc ++ v := by
  rw [fetchWord_eq, memWrite_pc, memRead_memWrite, memRead_memWrite, if_pos h.symm,
    if_neg (h ▸ (decodeAddr_add_one_ne hp s.pc).symm)]

theorem fetchWord_memWrite_other {s : State} {a : Word} (v : Byte)
    (h₁ : decodeAddr s.params a ≠ decodeAddr s.params s.pc)
    (h₂ : decodeAddr s.params a ≠ decodeAddr s.params (s.pc + 1)) :
    fetchWord (memWrite a v s) = fetchWord s := by
  rw [fetchWord_eq, memWrite_pc, memRead_memWrite, memRead_memWrite, if_neg h₁.symm, if_neg h₂.symm, ← fetchWord_eq]

/-- Settles O22: the store's decoded address is that of the first byte of the word, of the second, or of neither. -/
theorem storeSeenByFetch : Obligations.StoreSeenByFetch := by
  unfold Obligations.StoreSeenByFetch
  intro s a v hp
  simp only [← decodeAddr_eq hp, ← decodeAddr_add_one hp]
  exact ⟨fetchWord_memWrite_first v hp, fetchWord_memWrite_second v hp, fetchWord_memWrite_other v⟩

/-! The word of a tick: the fetch or the override (40_execution_cycle R103). -/

theorem tickWord_of_no_override {s : State} (h : (nextInput s).overrideWord = none) : tickWord s = fetchWord s := by
  simp only [tickWord, h]

theorem tickWord_of_override {s : State} {op : Word} (h : (nextInput s).overrideWord = some op) : tickWord s = op := by
  simp only [tickWord, h]

theorem fetchWord_toNat (s : State) :
    (fetchWord s).toNat = 256 * (memRead s s.pc).toNat + (memRead s (s.pc + 1)).toNat :=
  toNat_append_byte _ _

/-- Settles O21: the fetch is two reads through the decoder, and the inputs of a tick do not depend on memory. -/
theorem fetchOrOverride : Obligations.FetchOrOverride := by
  unfold Obligations.FetchOrOverride
  exact ⟨fetchWord_toNat, fun _ => tickWord_of_no_override,
    fun s _ m h => tickWord_of_override (s := { s with mem := m }) h⟩

theorem nextInput_placeWord_override (op : Word) (s : State) :
    (nextInput (placeWord op s)).overrideWord = none := by
  cases hs : s.pending <;> simp [nextInput, presented, placeWord, withoutOverride, hs]

/-- The two stores of a placed word, the second of which leaves the first byte (20_memory R53). -/
theorem fetchWord_placeWord {s : State} (op : Word) (hp : s.params.Wf) : fetchWord (placeWord op s) = op :=
  calc fetchWord (placeWord op s)
    _ = fetchWord (memWrite (s.pc + 1) (op.extractLsb' 0 8) (memWrite s.pc (op.extractLsb' 8 8) s)) := rfl
    _ = memRead (memWrite s.pc (op.extractLsb' 8 8) s) s.pc ++ op.extractLsb' 0 8 :=
      fetchWord_memWrite_second (s := memWrite s.pc _ s) _ hp rfl
    _ = op.extractLsb' 8 8 ++ op.extractLsb' 0 8 := by rw [memRead_memWrite, if_pos rfl]
    _ = op := append_extractLsb'_bytes op

/-- Settles O54: the placing takes the override away, so the tick fetches, and the fetch is the placed word. -/
theorem placedWordIsFetchedNext : Obligations.PlacedWordIsFetchedNext := by
  unfold Obligations.PlacedWordIsFetchedNext
  intro s w hp hw
  refine ⟨⟨rfl, rfl⟩, ?_⟩
  rw [State.withFetchWord, tickWord_of_no_override (nextInput_placeWord_override _ s), fetchWord_placeWord _ hp,
    BitVec.toNat_ofNat]
  omega

/-! The instructions that write memory or the stack. -/

@[simp] theorem skipIf_mem (c : Bool) (s : State) : (skipIf c s).mem = s.mem := by rw [skipIf_frame]

@[simp] theorem skipIf_stack (c : Bool) (s : State) : (skipIf c s).stack = s.stack := by rw [skipIf_frame]

/-- Settles O24, instruction by instruction: the two stores and CALL are the cases the premises leave out. -/
theorem onlyStoresWriteMemory : Obligations.OnlyStoresWriteMemory := by
  unfold Obligations.OnlyStoresWriteMemory
  intro i s t h
  cases i with
  | ldBVx x => cases h; exact ⟨fun hb _ => absurd rfl (hb x), fun _ => rfl⟩
  | ldMemVx x => cases h; exact ⟨fun _ hm => absurd rfl (hm x), fun _ => rfl⟩
  | call nnn =>
    rcases exec_call_cases h with ⟨-, rfl⟩ | ⟨-, rfl⟩ <;> exact ⟨fun _ _ => rfl, fun hc => absurd rfl (hc nnn)⟩
  | ret => rcases exec_ret_cases h with ⟨-, rfl⟩ | ⟨-, rfl⟩ <;> exact ⟨fun _ _ => rfl, fun _ => rfl⟩
  | ldVxK x => rcases exec_ldVxK_cases h with ⟨-, rfl⟩ | ⟨k, -, rfl⟩ <;> exact ⟨fun _ _ => rfl, fun _ => rfl⟩
  | seImm | sneImm | seReg | sneReg | skp | sknp =>
    cases h; exact ⟨fun _ _ => skipIf_mem _ s, fun _ => skipIf_stack _ s⟩
  | ldVxMem x => obtain rfl := Host.Outcome.next.inj h; exact ⟨fun _ _ => by simp, fun _ => by simp⟩
  | _ => cases h; exact ⟨fun _ _ => rfl, fun _ => rfl⟩

end Sys2Proof.Proofs
end

section
/-! The disassembler over any catalog: which entries win, and what it answers by how many they are
(30_encoding R77, R78, R80, R83). -/

namespace Sys2Proof.Proofs

/-- The matching entries with the most mask bits (30_encoding R77). -/
def winners (cat : List Entry) (op : Word) : List Entry :=
  (candidates cat op).filter fun e => popcount e.fixedMask == mostSpecific (candidates cat op)

theorem disassembleWith_of_no_winner {cat : List Entry} {op : Word} (h : winners cat op = []) :
    disassembleWith cat op = .error (.noMatch op) := by
  rw [winners] at h
  simp only [disassembleWith, h]

theorem disassembleWith_of_one_winner {cat : List Entry} {op : Word} {e : Entry} (h : winners cat op = [e]) :
    disassembleWith cat op = .ok (e.read op) := by
  rw [winners] at h
  simp only [disassembleWith, h]

theorem disassembleWith_of_tie {cat : List Entry} {op : Word} {e f : Entry} {es : List Entry}
    (h : winners cat op = e :: f :: es) : disassembleWith cat op = .error (.tie op) := by
  rw [winners] at h
  simp only [disassembleWith, h]

/-- Only a match is read (30_encoding R76, R79). -/
theorem matches_of_disassembleWith_ok {cat : List Entry} {op : Word} {i : Instr}
    (h : disassembleWith cat op = .ok i) : ∃ e ∈ cat, e.matchesWord op = true ∧ e.read op = i := by
  match hw : winners cat op with
  | [] => rw [disassembleWith_of_no_winner hw] at h; cases h
  | [e] =>
    rw [disassembleWith_of_one_winner hw] at h
    have he : e ∈ winners cat op := hw ▸ List.mem_singleton_self e
    obtain ⟨hcat, hmatch⟩ := List.mem_filter.1 (List.mem_of_mem_filter he)
    exact ⟨e, hcat, hmatch, Except.ok.inj h⟩
  | e :: f :: es => rw [disassembleWith_of_tie hw] at h; cases h

theorem winners_of_candidates_singleton {cat : List Entry} {op : Word} {e : Entry} (h : candidates cat op = [e]) :
    winners cat op = [e] := by
  simp [winners, h, mostSpecific]

theorem mostSpecific_perm {es fs : List Entry} (h : es.Perm fs) : mostSpecific es = mostSpecific fs :=
  have : LeftCommutative fun (e : Entry) b => max (popcount e.fixedMask) b := ⟨fun _ _ _ => max_left_comm _ _ _⟩
  h.foldr_eq 0

theorem winners_perm {c d : List Entry} (h : c.Perm d) (op : Word) : (winners c op).Perm (winners d op) := by
  have hcand : (candidates c op).Perm (candidates d op) := h.filter _
  rw [winners, winners, mostSpecific_perm hcand]
  exact hcand.filter _

/-- Settles O48: a permuted catalog has the same winners up to their order, and the answer is by their number. -/
theorem catalogOrderIrrelevant : Obligations.CatalogOrderIrrelevant := by
  unfold Obligations.CatalogOrderIrrelevant
  intro c d op h
  have hw := winners_perm h op
  match hc : winners c op with
  | [] =>
    rw [disassembleWith_of_no_winner hc, disassembleWith_of_no_winner (hc ▸ hw).nil_eq.symm]
  | [e] =>
    rw [disassembleWith_of_one_winner hc, disassembleWith_of_one_winner (hc ▸ hw).singleton_eq.symm]
  | e :: f :: es =>
    match hd : winners d op with
    | [] => simp [hc, hd] at hw
    | [g] => simp [hc, hd] at hw
    | g :: k :: gs => rw [disassembleWith_of_tie hc, disassembleWith_of_tie hd]

end Sys2Proof.Proofs
end

section
/-! The catalog's entries against each other: two of them match one word only where SYS meets CLS or RET, so
every other word that an entry matches is read by that entry (30_encoding R77, R80). -/

namespace Sys2Proof.Proofs

/-- Two entries differ at a digit both have fixed, unless the later one fixes every digit of the word of CLS or
RET (30_encoding R75). -/
theorem catalog_pairwise : catalog.Pairwise fun e f =>
    e.fixedMask &&& f.fixedValue ≠ f.fixedMask &&& e.fixedValue ∨
      f.fixedMask = 0xFFFF ∧ (f.fixedValue = 0x00E0 ∨ f.fixedValue = 0x00EE) := by
  decide

/-- Two entries that match one word agree at the digits both have fixed (30_encoding R76). -/
theorem and_fixedValue_comm_of_matches {e f : Entry} {w : Word} (he : e.matchesWord w = true)
    (hf : f.matchesWord w = true) : e.fixedMask &&& f.fixedValue = f.fixedMask &&& e.fixedValue := by
  rw [← eq_of_beq he, ← eq_of_beq hf]
  ac_rfl

theorem eq_fixedValue_of_full_mask {e : Entry} {w : Word} (hm : e.fixedMask = 0xFFFF) (h : e.matchesWord w = true) :
    w = e.fixedValue := by
  rw [← eq_of_beq h, hm]
  exact BitVec.and_allOnes.symm

/-- At most one entry matches a word other than those of CLS and RET (30_encoding R77). -/
theorem candidates_length_le_one {w : Word} (hcls : w ≠ 0x00E0) (hret : w ≠ 0x00EE) :
    (candidates catalog w).length ≤ 1 := by
  match h : candidates catalog w with
  | [] => simp
  | [e] => simp
  | e :: f :: es =>
    have hmatch : ∀ g ∈ candidates catalog w, g.matchesWord w = true := fun g hg => (List.mem_filter.1 hg).2
    have hpair : (candidates catalog w).Pairwise _ := catalog_pairwise.filter _
    rw [h] at hmatch hpair
    have he : e.matchesWord w = true := hmatch e (by simp)
    have hf : f.matchesWord w = true := hmatch f (by simp)
    rcases List.rel_of_pairwise_cons hpair (by simp : f ∈ f :: es) with hclash | ⟨hmask, hvalue⟩
    · exact absurd (and_fixedValue_comm_of_matches he hf) hclash
    · rw [← eq_fixedValue_of_full_mask hmask hf] at hvalue
      exact absurd hvalue (not_or.2 ⟨hcls, hret⟩)

theorem candidates_eq_singleton {w : Word} {e : Entry} (hcls : w ≠ 0x00E0) (hret : w ≠ 0x00EE) (he : e ∈ catalog)
    (hm : e.matchesWord w = true) : candidates catalog w = [e] := by
  have hmem : e ∈ candidates catalog w := List.mem_filter.2 ⟨he, hm⟩
  match h : candidates catalog w with
  | [] => simp [h] at hmem
  | [f] => rw [h, List.mem_singleton] at hmem; rw [hmem]
  | f :: g :: es => exact absurd (candidates_length_le_one hcls hret) (by simp [h])

theorem disassemble_clsWord : disassemble 0x00E0 = .ok .cls := by decide

theorem disassemble_retWord : disassemble 0x00EE = .ok .ret := by decide

/-- Settles O47: at most one entry matches any other word, and the two words have two matches each. -/
theorem onlyTwoWordsMatchTwice : Obligations.OnlyTwoWordsMatchTwice := by
  unfold Obligations.OnlyTwoWordsMatchTwice
  refine ⟨fun w => ⟨fun h => ?_, ?_⟩, disassemble_clsWord, disassemble_retWord⟩
  · by_contra hw
    obtain ⟨hcls, hret⟩ := not_or.1 hw
    exact absurd (candidates_length_le_one hcls hret) (not_le.2 h)
  · rintro (rfl | rfl) <;> decide

theorem disassemble_of_matches {w : Word} {e : Entry} (hcls : w ≠ 0x00E0) (hret : w ≠ 0x00EE) (he : e ∈ catalog)
    (hm : e.matchesWord w = true) : disassemble w = .ok (e.read w) :=
  disassembleWith_of_one_winner (winners_of_candidates_singleton (candidates_eq_singleton hcls hret he hm))

/-- Where SYS loses to CLS or RET, what it reads is not well-formed (30_encoding R77). -/
theorem disassemble_of_wellFormed_match {w : Word} {e : Entry} (he : e ∈ catalog) (hm : e.matchesWord w = true)
    (hwf : WellFormed (e.read w) = true) : disassemble w = .ok (e.read w) := by
  have atCls : ∀ e ∈ catalog, e.matchesWord 0x00E0 = true → WellFormed (e.read 0x00E0) = true →
      e.read 0x00E0 = .cls := by decide
  have atRet : ∀ e ∈ catalog, e.matchesWord 0x00EE = true → WellFormed (e.read 0x00EE) = true →
      e.read 0x00EE = .ret := by decide
  by_cases hcls : w = 0x00E0
  · subst hcls
    rw [atCls e he hm hwf, disassemble_clsWord]
  by_cases hret : w = 0x00EE
  · subst hret
    rw [atRet e he hm hwf, disassemble_retWord]
  exact disassemble_of_matches hcls hret he hm

/-- A word is no instruction exactly where no entry matches it: no tie is left (30_encoding R78, R80). -/
theorem disassemble_eq_error_iff {w : Word} :
    (∃ x, disassemble w = .error x) ↔ ∀ e ∈ catalog, e.matchesWord w = false := by
  constructor
  · rintro ⟨x, hx⟩ e he
    have hcls : w ≠ 0x00E0 := by rintro rfl; cases disassemble_clsWord.symm.trans hx
    have hret : w ≠ 0x00EE := by rintro rfl; cases disassemble_retWord.symm.trans hx
    by_contra hm
    cases (disassemble_of_matches hcls hret he (Bool.not_eq_false _ ▸ hm)).symm.trans hx
  · intro h
    cases hd : disassemble w with
    | error x => exact ⟨x, rfl⟩
    | ok i =>
      obtain ⟨e, he, hm, -⟩ := matches_of_disassembleWith_ok hd
      simp [h e he] at hm

end Sys2Proof.Proofs
end

section
/-! Encoding and decoding are inverse to each other (30_encoding R75 to R79): the encoded word matches its own
entry, and what an entry reads encodes to the word it matches. -/

namespace Sys2Proof.Proofs

/-- The encoded word matches the entry of its own pattern, which reads the instruction back. -/
theorem encode_matches_own_template (i : Instr) : Laws.Template.Statement i :=
  match i with
  | .sys nnn => Laws.Template.sys nnn
  | .cls => Laws.Template.cls
  | .ret => Laws.Template.ret
  | .jp nnn => Laws.Template.jp nnn
  | .call nnn => Laws.Template.call nnn
  | .seImm x nn => Laws.Template.seImm x nn
  | .sneImm x nn => Laws.Template.sneImm x nn
  | .seReg x y => Laws.Template.seReg x y
  | .ldImm x nn => Laws.Template.ldImm x nn
  | .addImm x nn => Laws.Template.addImm x nn
  | .ldReg x y => Laws.Template.ldReg x y
  | .or x y => Laws.Template.or x y
  | .and x y => Laws.Template.and x y
  | .xor x y => Laws.Template.xor x y
  | .addReg x y => Laws.Template.addReg x y
  | .sub x y => Laws.Template.sub x y
  | .shr x y => Laws.Template.shr x y
  | .subn x y => Laws.Template.subn x y
  | .shl x y => Laws.Template.shl x y
  | .sneReg x y => Laws.Template.sneReg x y
  | .ldI nnn => Laws.Template.ldI nnn
  | .jpV0 nnn => Laws.Template.jpV0 nnn
  | .rnd x nn => Laws.Template.rnd x nn
  | .drw x y n => Laws.Template.drw x y n
  | .skp x => Laws.Template.skp x
  | .sknp x => Laws.Template.sknp x
  | .ldVxDt x => Laws.Template.ldVxDt x
  | .ldVxK x => Laws.Template.ldVxK x
  | .ldDtVx x => Laws.Template.ldDtVx x
  | .ldStVx x => Laws.Template.ldStVx x
  | .addIVx x => Laws.Template.addIVx x
  | .ldFVx x => Laws.Template.ldFVx x
  | .ldBVx x => Laws.Template.ldBVx x
  | .ldMemVx x => Laws.Template.ldMemVx x
  | .ldVxMem x => Laws.Template.ldVxMem x

/-- Settles O44: the encoded word matches its own entry, which wins as it reads a well-formed instruction. -/
theorem decodeAfterEncode : Obligations.DecodeAfterEncode := by
  unfold Obligations.DecodeAfterEncode
  intro i hi
  obtain ⟨pt, hpt, -, hm, hr⟩ := encode_matches_own_template i
  have he : Entry.ofTemplate pt.1 pt.2 ∈ catalog := List.mem_map_of_mem hpt
  rw [disassemble_of_wellFormed_match he hm (hr.symm ▸ hi), hr]

/-! What an entry reads, put back into a word. -/

theorem regBits_regOfField : ∀ b : Nibble, regBits (regOfField (b.setWidth 16)) = b := by decide

/-- The template of a pattern (30_encoding R75). -/
def patternTemplate (p : Pattern) : Template :=
  (((templatesLow ++ templatesHigh).find? (·.1 == p)).map (·.2)).getD ⟨.N, .N, .N, .N⟩

theorem row_eq_patternTemplate : ∀ pt ∈ templatesLow ++ templatesHigh, pt.2 = patternTemplate pt.1 := by decide

theorem test_iff {t : Template} {a b c d : Nibble} : t.test a b c d = true ↔
    t.n3.test a = true ∧ t.n2.test b = true ∧ t.n1.test c = true ∧ t.n0.test d = true := by
  simp [Template.test]

theorem lit_test_eq {l a : Nibble} (h : (Nib.lit l).test a = true) : a = l := eq_of_beq h

theorem append_nnn (l b c d : Nibble) : l ++ (word4 0 b c d).setWidth 12 = word4 l b c d := by
  apply BitVec.eq_of_getLsbD_eq
  intro k hk
  simp only [BitVec.getLsbD_append, BitVec.getLsbD_setWidth, word4_getLsbD]
  interval_cases k <;> simp

theorem append_nn (l b c d : Nibble) : l ++ b ++ (word4 0 0 c d).setWidth 8 = word4 l b c d := by
  apply BitVec.eq_of_getLsbD_eq
  intro k hk
  simp only [BitVec.getLsbD_append, BitVec.getLsbD_setWidth, word4_getLsbD]
  interval_cases k <;> simp

theorem regBits_field_x (a b c d : Nibble) :
    regBits (regOfField ((⟨0x0F00, 8⟩ : Field).read (word4 a b c d))) = b := by
  rw [read_X, regBits_regOfField]

theorem regBits_field_y (a b c d : Nibble) :
    regBits (regOfField ((⟨0x00F0, 4⟩ : Field).read (word4 a b c d))) = c := by
  rw [read_Y, regBits_regOfField]

theorem append_field_nnn (l a b c d : Nibble) :
    l ++ ((⟨0x0FFF, 0⟩ : Field).read (word4 a b c d)).setWidth 12 = word4 l b c d := by
  rw [(read_N _ _ _ _).2.2, append_nnn]

theorem append_fields_x_nn (l a b c d : Nibble) :
    l ++ regBits (regOfField ((⟨0x0F00, 8⟩ : Field).read (word4 a b c d))) ++
      ((⟨0x00FF, 0⟩ : Field).read (word4 a b c d)).setWidth 8 = word4 l b c d := by
  rw [regBits_field_x, (read_N _ _ _ _).2.1, append_nn]

/-- What a row reads encodes to the word it matches, by the shape of the row's template. -/
theorem encode_read {pt : Pattern × Template} (h : pt ∈ templatesLow ++ templatesHigh) {a b c d : Nibble}
    (ht : pt.2.test a b c d = true) :
    encode ((Entry.ofTemplate pt.1 pt.2).read (word4 a b c d)) = word4 a b c d := by
  obtain ⟨p, t⟩ := pt
  obtain rfl : t = patternTemplate p := row_eq_patternTemplate _ h
  obtain ⟨ha, hb, hc, hd⟩ := test_iff.1 ht
  have hx := regBits_field_x a b c d
  have hy := regBits_field_y a b c d
  cases p with
  | cls | ret =>
    obtain rfl := lit_test_eq ha
    obtain rfl := lit_test_eq hb
    obtain rfl := lit_test_eq hc
    obtain rfl := lit_test_eq hd
    rfl
  | sys | jp | call | ldI | jpV0 =>
    obtain rfl := lit_test_eq ha
    exact append_field_nnn _ _ b c d
  | seImm | sneImm | ldImm | addImm | rnd =>
    obtain rfl := lit_test_eq ha
    exact append_fields_x_nn _ _ b c d
  | drw =>
    obtain rfl := lit_test_eq ha
    exact congr (congrArg₂ (word4 _) hx hy) (Laws.Template.field_n _ _ _ d)
  | seReg | ldReg | or | and | xor | addReg | sub | shr | subn | shl | sneReg =>
    obtain rfl := lit_test_eq ha
    obtain rfl := lit_test_eq hd
    exact congrArg₂ (word4 _ · · _) hx hy
  | skp | sknp | ldVxDt | ldVxK | ldDtVx | ldStVx | addIVx | ldFVx | ldBVx | ldMemVx | ldVxMem =>
    obtain rfl := lit_test_eq ha
    obtain rfl := lit_test_eq hc
    obtain rfl := lit_test_eq hd
    exact congrArg (word4 _ · _ _) hx

theorem encode_of_disassemble {w : Word} {i : Instr} (h : disassemble w = .ok i) : encode i = w := by
  obtain ⟨e, he, hm, rfl⟩ := matches_of_disassembleWith_ok h
  obtain ⟨pt, hpt, rfl⟩ := List.mem_map.1 he
  rw [word4_split w] at hm ⊢
  exact encode_read hpt ((matchesWord_word4 pt hpt _ _ _ _).symm.trans hm)

theorem eq_sys_of_not_wellFormed {i : Instr} (h : WellFormed i = false) : i = .sys 0x0E0 ∨ i = .sys 0x0EE := by
  cases i with
  | sys nnn => simpa [WellFormed, or_iff_not_imp_left] using h
  | _ => cases h

/-- Settles O45: an instruction that is not well-formed has the word of CLS or RET, which decodes to those. -/
theorem encodeAfterDecode : Obligations.EncodeAfterDecode := by
  unfold Obligations.EncodeAfterDecode
  intro w i h
  refine ⟨encode_of_disassemble h, ?_⟩
  by_contra hwf
  rcases eq_sys_of_not_wellFormed (Bool.eq_false_iff.2 hwf) with rfl | rfl
  · obtain rfl : 0x00E0 = w := encode_of_disassemble h
    cases disassemble_clsWord.symm.trans h
  · obtain rfl : 0x00EE = w := encode_of_disassemble h
    cases disassemble_retWord.symm.trans h

/-- Settles O49: seven words are encodings of well-formed instructions, and no entry matches the eighth. -/
theorem wordsDecodeAsListed : Obligations.WordsDecodeAsListed := by
  unfold Obligations.WordsDecodeAsListed
  refine ⟨decodeAfterEncode (.sys 0xABC) ?_, decodeAfterEncode (.call 0xFFF) ?_,
    decodeAfterEncode (.seImm 0xA 0x55) ?_, decodeAfterEncode (.shr 1 2) ?_, decodeAfterEncode (.drw 0xA 0xB 0xF) ?_,
    decodeAfterEncode (.skp 0) ?_, decodeAfterEncode (.ldVxMem 0xF) ?_, disassembleWith_of_no_winner ?_⟩ <;> decide

end Sys2Proof.Proofs
end

section
/-! The words that are no instruction (30_encoding R80, R81): a top digit has a row with variables alone below it, or
only rows that fix the last digit too (5, 8, 9), or the last two (E, F). -/

namespace Sys2Proof.Proofs

theorem forall_not_matchesWord_word4 (a b c d : Nibble) :
    (∀ e ∈ catalog, e.matchesWord (word4 a b c d) = false) ↔
      ∀ pt ∈ templatesLow ++ templatesHigh, pt.2.test a b c d = false := by
  rw [catalog, List.forall_mem_map]
  exact forall₂_congr fun pt h => by rw [matchesWord_word4 pt h]

theorem word4_top_digit (a b c d : Nibble) : (word4 a b c d).toNat / 0x1000 = a.toNat := by
  rw [word4_toNat]
  omega

theorem word4_last_digit (a b c d : Nibble) : (word4 a b c d).toNat % 16 = d.toNat := by
  rw [word4_toNat]
  omega

theorem word4_low_byte (a b c d : Nibble) : (word4 a b c d).toNat % 256 = 16 * c.toNat + d.toNat := by
  rw [word4_toNat]
  omega

/-! The last digits the rows of one top digit leave out. -/

theorem last_digit_of_5_9 : ∀ d : Nibble, d ≠ 0 ↔ d.toNat ≠ 0 := by decide

theorem last_digit_of_8 : ∀ d : Nibble,
    d ∉ [0, 1, 2, 3, 4, 5, 6, 7, 14] ↔ d.toNat ∈ [8, 9, 10, 11, 12, 13, 15] := by decide

theorem low_digits_of_E : ∀ c d : Nibble,
    (c, d) ∉ [(0x9, 0xE), (0xA, 0x1)] ↔ 16 * c.toNat + d.toNat ∉ [0x9E, 0xA1] := by decide

theorem low_digits_of_F : ∀ c d : Nibble,
    (c, d) ∉ [(0x0, 0x7), (0x0, 0xA), (0x1, 0x5), (0x1, 0x8), (0x1, 0xE), (0x2, 0x9), (0x3, 0x3), (0x5, 0x5),
      (0x6, 0x5)] ↔
    16 * c.toNat + d.toNat ∉ [0x07, 0x0A, 0x15, 0x18, 0x1E, 0x29, 0x33, 0x55, 0x65] := by decide

/-- No row matches, by the top digit `a`: eleven of the sixteen have a row with variables alone below it. -/
theorem no_row_matches_iff (a b c d : Nibble) :
    (∀ pt ∈ templatesLow ++ templatesHigh, pt.2.test a b c d = false) ↔
      (a.toNat = 5 ∧ d.toNat ≠ 0) ∨
      (a.toNat = 8 ∧ d.toNat ∈ [8, 9, 10, 11, 12, 13, 15]) ∨
      (a.toNat = 9 ∧ d.toNat ≠ 0) ∨
      (a.toNat = 14 ∧ 16 * c.toNat + d.toNat ∉ [0x9E, 0xA1]) ∨
      (a.toNat = 15 ∧ 16 * c.toNat + d.toNat ∉ [0x07, 0x0A, 0x15, 0x18, 0x1E, 0x29, 0x33, 0x55, 0x65]) := by
  rw [← last_digit_of_5_9, ← last_digit_of_8, ← low_digits_of_E, ← low_digits_of_F]
  simp only [templatesLow, templatesHigh, List.cons_append, List.nil_append, List.forall_mem_cons, Template.test,
    Nib.test]
  obtain ⟨a⟩ := a
  fin_cases a <;> simp

/-- Settles O46: no entry matches exactly where no row of the word's top digit has its last digits. -/
theorem undecodableWords : Obligations.UndecodableWords := by
  unfold Obligations.UndecodableWords
  intro w
  rw [disassemble_eq_error_iff, word4_split w, forall_not_matchesWord_word4, no_row_matches_iff, word4_top_digit,
    word4_last_digit, word4_low_byte]

end Sys2Proof.Proofs
end

section
/-! The tick (40_execution_cycle): no tick while stopped, the DECODE fault, and the tick of a decoded instruction
with its timers and its frame notification. -/

namespace Sys2Proof.Proofs

open Sys2Proof.Machine Sys2Proof.Claims

/-- Settles O30: a ticking core whose word decodes takes the branch of the loop and of the tick that runs the
instruction. -/
theorem stepRunsDecodedInstruction : Obligations.StepRunsDecodedInstruction := by
  unfold Obligations.StepRunsDecodedInstruction
  intro s i hrun hd
  obtain ⟨t, ht⟩ := exec_next i (advance (observe i (beginTick s)))
  rw [step_of_ok hrun hd, runInstr, ht]

theorem sameCore_decodeFault (s : State) :
    SameCore { s with fault := (raiseFault .decode (beginTick s)).fault } (raiseFault .decode (beginTick s)) := by
  constructor <;> rfl

/-- Settles O31: the tick is step 1 and the fault, which puts back the `pc` it latched. -/
theorem decodeFaultCommitsNothing : Obligations.DecodeFaultCommitsNothing := by
  unfold Obligations.DecodeFaultCommitsNothing
  intro s e hrun he
  exact ⟨raiseFault .decode (beginTick s), step_of_error hrun he, rfl, rfl, sameCore_decodeFault s⟩

theorem step_of_stopped {s : State} (h : s.halted = true ∨ ∃ r, s.fault = some r) : step s = .next (noTick s) := by
  rcases h with h | ⟨r, h⟩ <;> simp [step, loopIteration, h]

/-- Settles O32: a stopped core takes the branch without a tick, and a load writes memory alone after its reset. -/
theorem noTickWhileStopped : Obligations.NoTickWhileStopped := by
  unfold Obligations.NoTickWhileStopped
  refine ⟨fun s => step_of_stopped, fun b s => rfl, fun s => rfl, ?load⟩
  case load =>
    intro bytes s t h
    obtain ⟨-, rfl⟩ := load_ok h
    rfl

/-- A tick that decodes is step 5 from the advanced state and then steps 6 and 7. -/
theorem step_decoded {s t : State} {i : Instr} (hrun : Running s) (hd : Decodes s i) (h : step s = .next t) :
    ∃ u, exec i (advance (observe i (beginTick s))) = .next u ∧ t = endTick u := by
  obtain ⟨u, hu⟩ := exec_next i (advance (observe i (beginTick s)))
  rw [step_of_ok hrun hd, runInstr, hu] at h
  cases h
  exact ⟨u, hu, rfl⟩

/-- `DT` after step 5, from the registers and the timer before it (44_display_input_timers R206). -/
def delayAfter (i : Instr) (V : Vector Byte 16) (DT : Byte) : Byte :=
  match i with
  | .ldDtVx x => V[x]
  | _ => DT

/-- `ST` after step 5, from the registers and the timer before it (44_display_input_timers R207). -/
def soundAfter (i : Instr) (V : Vector Byte 16) (ST : Byte) : Byte :=
  match i with
  | .ldStVx x => V[x]
  | _ => ST

/-- The instructions that set the draw effect (44_display_input_timers R200, R201). -/
def setsDraw (i : Instr) : Bool :=
  match i with
  | .cls | .drw _ _ _ => true
  | _ => false

theorem delayAfter_of_ne {i : Instr} (h : ∀ x, i ≠ .ldDtVx x) (V : Vector Byte 16) (DT : Byte) :
    delayAfter i V DT = DT := by
  cases i with
  | ldDtVx x => exact absurd rfl (h x)
  | _ => rfl

theorem soundAfter_of_ne {i : Instr} (h : ∀ x, i ≠ .ldStVx x) (V : Vector Byte 16) (ST : Byte) :
    soundAfter i V ST = ST := by
  cases i with
  | ldStVx x => exact absurd rfl (h x)
  | _ => rfl

theorem setsDraw_iff {i : Instr} : setsDraw i = true ↔ i = .cls ∨ ∃ x y n, i = .drw x y n := by
  cases i with
  | cls => exact ⟨fun _ => .inl rfl, fun _ => rfl⟩
  | drw x y n => exact ⟨fun _ => .inr ⟨x, y, n, rfl⟩, fun _ => rfl⟩
  | _ => simp [setsDraw]

/-- What step 5 leaves in the timers and the draw-effect latch. -/
structure ExecDevices (i : Instr) (s t : State) : Prop where
  DT   : t.DT = delayAfter i s.V s.DT
  ST   : t.ST = soundAfter i s.V s.ST
  draw : t.draw = (setsDraw i || s.draw)

@[simp] theorem skipIf_DT (c : Bool) (s : State) : (skipIf c s).DT = s.DT := by rw [skipIf_frame]

@[simp] theorem skipIf_ST (c : Bool) (s : State) : (skipIf c s).ST = s.ST := by rw [skipIf_frame]

@[simp] theorem skipIf_draw (c : Bool) (s : State) : (skipIf c s).draw = s.draw := by rw [skipIf_frame]

theorem exec_devices {i : Instr} {s t : State} (h : exec i s = .next t) : ExecDevices i s t := by
  cases i with
  | ret => rcases exec_ret_cases h with ⟨-, rfl⟩ | ⟨-, rfl⟩ <;> exact ⟨rfl, rfl, rfl⟩
  | call nnn => rcases exec_call_cases h with ⟨-, rfl⟩ | ⟨-, rfl⟩ <;> exact ⟨rfl, rfl, rfl⟩
  | ldVxK x => rcases exec_ldVxK_cases h with ⟨-, rfl⟩ | ⟨k, -, rfl⟩ <;> exact ⟨rfl, rfl, rfl⟩
  | seImm | sneImm | seReg | sneReg | skp | sknp =>
    cases h; exact ⟨skipIf_DT _ s, skipIf_ST _ s, skipIf_draw _ s⟩
  | ldDtVx x => cases h; exact ⟨zext_self _, rfl, rfl⟩
  | ldStVx x => cases h; exact ⟨rfl, zext_self _, rfl⟩
  | ldVxMem x =>
    obtain rfl := Host.Outcome.next.inj h
    constructor <;> simp [delayAfter, soundAfter, setsDraw]
  | _ => cases h; exact ⟨rfl, rfl, rfl⟩

/-- The timers and the beep of a completed tick, from what step 5 left (40_execution_cycle R108). -/
theorem step_timers {s t : State} {i : Instr} (hrun : Running s) (hd : Decodes s i) (h : step s = .next t)
    (hf : t.fault = none) :
    t.DT.toNat = (delayAfter i s.V s.DT).toNat - 1 ∧ t.ST.toNat = (soundAfter i s.V s.ST).toNat - 1 ∧
      (t.out.beep = true ↔ soundAfter i s.V s.ST = 1) := by
  obtain ⟨u, hu, rfl⟩ := step_decoded hrun hd h
  rw [endTick_fault] at hf
  have hDT : u.DT = delayAfter i s.V s.DT := (exec_devices hu).DT
  have hST : u.ST = soundAfter i s.V s.ST := (exec_devices hu).ST
  rw [endTick_of_none hf, ← hDT, ← hST]
  exact ⟨countDown_toNat u.DT, countDown_toNat u.ST, beq_iff_eq⟩

/-- Settles O33: step 6 counts down what step 5 leaves, which is a register for the two instructions that load a
timer. -/
theorem timersCountDown : Obligations.TimersCountDown := by
  unfold Obligations.TimersCountDown
  intro s t i hrun hd h hf
  obtain ⟨hDT, hST, hbeep⟩ := step_timers hrun hd h hf
  refine ⟨?loadDT, ?keepDT, ?loadST, ?keepST⟩
  case loadDT => rintro x rfl; exact hDT
  case keepDT => intro hi; rwa [delayAfter_of_ne hi] at hDT
  case loadST => rintro x rfl; exact ⟨hST, hbeep⟩
  case keepST => intro hi; rw [soundAfter_of_ne hi] at hST hbeep; exact ⟨hST, hbeep⟩

/-- RET and CALL, which alone can fault, set no draw effect. -/
theorem setsDraw_of_fault {i : Instr} {s t : State} {r : FaultRecord} (h : exec i s = .next t)
    (hs : s.fault = none) (hr : t.fault = some r) : setsDraw i = false := by
  rcases exec_fault h with ⟨rfl, -⟩ | ⟨⟨n, rfl⟩, -⟩ | ⟨hkeep, -⟩
  · rfl
  · rfl
  · rw [hkeep, hs] at hr
    cases hr

/-- Settles O34: a completed tick reports the latch step 5 leaves, and a tick that faulted had nothing set. -/
theorem frameNotification : Obligations.FrameNotification := by
  unfold Obligations.FrameNotification
  intro s t i hrun hd h
  obtain ⟨u, hu, rfl⟩ := step_decoded hrun hd h
  have hdraw : u.draw = setsDraw i := (exec_devices hu).draw.trans (Bool.or_false _)
  have hframe : u.out.frameComplete = false := (exec_keeps hu).frame
  rw [← setsDraw_iff, ← hdraw]
  cases hf : u.fault with
  | none => rw [endTick_of_none hf]; exact ⟨rfl, Iff.rfl⟩
  | some r =>
    have hnone : u.draw = false := hdraw.trans (setsDraw_of_fault hu hrun.2 hf)
    rw [endTick_of_some hf, hframe, hnone]
    exact ⟨rfl, Iff.rfl⟩

end Sys2Proof.Proofs
end

section
/-! Two runs of one instruction from states that differ in the input sample (40_execution_cycle R115, R116). -/

namespace Sys2Proof.Proofs

open Sys2Proof.Machine

/-- `s` in a tick that sampled `j`. -/
def withInput (j : TickInput) (s : State) : State := { s with input := j }

/-- The instructions that read KEY (40_execution_cycle R115). -/
def ReadsKey (i : Instr) : Prop := (∃ x, i = .skp x) ∨ (∃ x, i = .sknp x) ∨ ∃ x, i = .ldVxK x

/-- The instruction that reads RAND (40_execution_cycle R116). -/
def ReadsRand (i : Instr) : Prop := ∃ x nn, i = .rnd x nn

@[simp] theorem withInput_sp (j : TickInput) (s : State) : (withInput j s).sp = s.sp := rfl

@[simp] theorem withInput_config (j : TickInput) (s : State) : (withInput j s).config = s.config := rfl

@[simp] theorem withInput_input (j : TickInput) (s : State) : (withInput j s).input = j := rfl

theorem skipIf_withInput (c : Bool) (j : TickInput) (s : State) :
    skipIf c (withInput j s) = withInput j (skipIf c s) := by
  cases c <;> rfl

theorem keyEquals_withInput {j : TickInput} {s : State} (hj : j.key = s.input.key) (v : Byte) :
    keyEquals (withInput j s) v = keyEquals s v := by
  rw [keyEquals, keyEquals, withInput_input, hj]

/-- With another sample that agrees in what the instruction reads of it, an instruction leads to the same state but
for the sample. -/
theorem exec_withInput {i : Instr} {s t : State} {j : TickInput} (hkey : ReadsKey i → j.key = s.input.key)
    (hrand : ReadsRand i → j.rand = s.input.rand) (h : exec i s = .next t) :
    exec i (withInput j s) = .next (withInput j t) := by
  cases i with
  | skp x =>
    cases h
    rw [exec, execSkp, keyEquals_withInput (hkey (.inl ⟨x, rfl⟩)), skipIf_withInput]
    rfl
  | sknp x =>
    cases h
    rw [exec, execSknp, keyEquals_withInput (hkey (.inr (.inl ⟨x, rfl⟩))), skipIf_withInput]
    rfl
  | ldVxK x =>
    rw [exec, execLdVxK] at h ⊢
    rw [withInput_input, hkey (.inr (.inr ⟨x, rfl⟩))]
    split at h <;> cases h <;> rfl
  | rnd x nn =>
    cases h
    rw [exec, execRnd, withInput_input, hrand ⟨x, nn, rfl⟩]
    rfl
  | ret =>
    rw [exec, execRet] at h ⊢
    rw [withInput_sp, withInput_config]
    split_ifs at h ⊢ <;> cases h <;> rfl
  | call nnn =>
    rw [exec, execCall] at h ⊢
    rw [withInput_sp, withInput_config]
    split_ifs at h ⊢ <;> cases h <;> rfl
  | seImm | sneImm | seReg | sneReg => cases h; exact congrArg Host.Outcome.next (skipIf_withInput _ j s)
  | ldVxMem x => obtain rfl := Host.Outcome.next.inj h; rfl
  | _ => cases h; rfl

/-- Settles O43: the other sample differs in KEY alone, which the instruction does not read, or in RAND alone. -/
theorem samplesReadOnlyByTheirInstructions : Obligations.SamplesReadOnlyByTheirInstructions := by
  unfold Obligations.SamplesReadOnlyByTheirInstructions
  intro i s t key rand h
  rw [(exec_keeps h).input]
  refine ⟨?key, ?rand⟩
  case key =>
    intro hskp hsknp hldVxK
    have hi : ¬ReadsKey i := by
      rintro (⟨x, hx⟩ | ⟨x, hx⟩ | ⟨x, hx⟩)
      · exact hskp x hx
      · exact hsknp x hx
      · exact hldVxK x hx
    exact exec_withInput (fun hk => absurd hk hi) (fun _ => rfl) h
  case rand =>
    intro hrnd
    exact exec_withInput (fun _ => rfl) (fun ⟨x, nn, hx⟩ => absurd hx (hrnd x nn)) h

end Sys2Proof.Proofs
end

section
/-! The control flow instructions (41_control_flow): what RET and CALL answer on each side of their bounds check, the
tick of a stack fault, and what a jump and a skip leave in `pc`. -/

namespace Sys2Proof.Proofs

open Sys2Proof.Machine Sys2Proof.Claims

/-- Settles O1: SYS answers the state it is given. -/
theorem sysDoesNothing : Obligations.SysDoesNothing := by
  unfold Obligations.SysDoesNothing
  intro nnn s
  rw [exec, execSys]

/-! Jumps (41_control_flow R134, R141). -/

/-- This hardware's ADDR_MASK keeps the low 12 bits of a jump's target. -/
theorem toNat_and_hardware_mask (a : Word) : (a &&& 0x0FFF).toNat = a.toNat % 0x1000 :=
  decodeAddr_eq hardware_wf a

theorem jumpsTo_of_pc {s t : State} {nnn : Addr} (h : t.pc = nnn.setWidth 16 &&& s.params.addrMask) :
    JumpsTo s t nnn := by
  refine ⟨h, fun hmask => ?_⟩
  rw [h, hmask, toNat_and_hardware_mask, BitVec.toNat_setWidth]
  omega

/-- Settles O7: each jump is one write of `pc`, masked. -/
theorem jumpTargets : Obligations.JumpTargets := by
  unfold Obligations.JumpTargets
  refine ⟨fun nnn s => ⟨_, rfl, jumpsTo_of_pc rfl, rfl⟩, fun nnn s => ⟨_, rfl, rfl, fun hmask => ?sum, rfl⟩⟩
  case sum =>
    have hsum : (nnn.setWidth 16 + s.V[(0 : Reg)].setWidth 16).toNat = nnn.toNat + s.V[(0 : Reg)].toNat := by
      rw [BitVec.toNat_add, BitVec.toNat_setWidth, BitVec.toNat_setWidth]
      omega
    rw [writePc_pc, hmask, toNat_and_hardware_mask]
    exact congrArg (· % 0x1000) hsum

/-! RET and CALL (41_control_flow R132, R135). -/

theorem exec_ret_of_underflow {s : State} (hsp : s.sp = 0) (hc : s.config.stackCheck = .strict) :
    exec .ret s = .next (raiseFault .stackUnderflow s) := by
  rw [exec, execRet, if_pos ⟨hsp, hc⟩]

theorem exec_ret_of_no_underflow {s : State} (h : s.sp = 0 → s.config.stackCheck = .wrap) :
    exec .ret s = .next (writeSp (s.sp - 1) (writePc s.stack[s.sp.toFin] s)) := by
  have hc : ¬(s.sp = 0 ∧ s.config.stackCheck = .strict) := fun ⟨hsp, hc⟩ => by simp [h hsp] at hc
  rw [exec, execRet, if_neg hc, readStack_eq]

theorem exec_call_of_overflow (nnn : Addr) {s : State} (hsp : s.sp = 15) (hc : s.config.stackCheck = .strict) :
    exec (.call nnn) s = .next (raiseFault .stackOverflow s) := by
  rw [exec, execCall, topEntry_eq, if_pos ⟨hsp, hc⟩]

theorem exec_call_of_no_overflow (nnn : Addr) {s : State} (h : s.sp = 15 → s.config.stackCheck = .wrap) :
    exec (.call nnn) s = .next (writePc (zext nnn) (writeStack (s.sp + 1) s.pc (writeSp (s.sp + 1) s))) := by
  have hc : ¬(s.sp = 15 ∧ s.config.stackCheck = .strict) := fun ⟨hsp, hc⟩ => by simp [h hsp] at hc
  rw [exec, execCall, topEntry_eq, if_neg hc]

/-- The stack after CALL: the advanced `pc` in the new top entry, the other entries as they were. -/
theorem call_stack_getElem (nnn : Addr) (s : State) (j : Fin 16) :
    (writePc (zext nnn) (writeStack (s.sp + 1) s.pc (writeSp (s.sp + 1) s))).stack[j] =
      if j = (s.sp + 1).toFin then s.pc else s.stack[j] := by
  rw [writePc_stack, writeStack_stack, writeSp_stack, getElem_set_stack]

/-- Settles O2: the two sides of RET's bounds check. -/
theorem retPopsReturnAddress : Obligations.RetPopsReturnAddress := by
  unfold Obligations.RetPopsReturnAddress
  refine ⟨?pops, fun s hsp hc => ⟨_, exec_ret_of_underflow hsp hc, raiseFault_fault _ s⟩⟩
  case pops =>
    intro s h
    refine ⟨_, exec_ret_of_no_underflow h, rfl, ?sp, rfl⟩
    case sp => rw [writeSp_sp]; bv_omega

/-- A tick whose step 5 takes a fault commits the fault latch and nothing else of the core: `pc` holds the tick's
address again, and steps 6 and 7 do not run (60_exceptions R239, 40_execution_cycle R110). -/
theorem step_of_exec_fault {s : State} {i : Instr} {c : FaultCode} (hrun : Running s) (hd : Decodes s i)
    (h : exec i (advance (observe i (beginTick s))) = .next (raiseFault c (advance (observe i (beginTick s))))) :
    ∃ t, step s = .next t ∧ t.fault = some ⟨c, s.pc, tickWord s⟩ ∧ t.out.fault = t.fault ∧
      SameCore { s with fault := t.fault } t := by
  refine ⟨raiseFault c (advance (observe i (beginTick s))), ?step, rfl, rfl, ?core⟩
  case step =>
    rw [step_of_ok hrun hd, runInstr, h]
    exact congrArg Host.Outcome.next (endTick_of_some (raiseFault_fault _ _))
  case core => constructor <;> rfl

/-- Settles O3: the tick of the underflow, and RET from `sp = 0` as a case of O2. -/
theorem retUnderflow : Obligations.RetUnderflow := by
  unfold Obligations.RetUnderflow
  refine ⟨rfl, ?strict, ?wrap⟩
  case strict =>
    intro s hsp hc hrun hd
    exact step_of_exec_fault hrun hd (exec_ret_of_underflow hsp hc)
  case wrap =>
    intro s hsp hc
    obtain ⟨t, ht, hpc, hsp', hframe⟩ := retPopsReturnAddress.1 s fun _ => hc
    have hentry : s.sp.toFin = 0 := congrArg BitVec.toFin hsp
    simp only [hentry] at hpc
    rw [hsp] at hsp'
    exact ⟨t, ht, hpc, BitVec.eq_of_toNat_eq hsp', hframe⟩

/-- Settles O4: the two sides of CALL's bounds check. -/
theorem callPushesReturnAddress : Obligations.CallPushesReturnAddress := by
  unfold Obligations.CallPushesReturnAddress
  refine ⟨?pushes, fun nnn s hsp hc => ⟨_, exec_call_of_overflow nnn hsp hc, raiseFault_fault _ s⟩⟩
  case pushes =>
    intro nnn s h
    refine ⟨_, exec_call_of_no_overflow nnn h, ?sp, ?top, fun j hj => ?others, jumpsTo_of_pc rfl, rfl⟩
    case sp => exact BitVec.toNat_add _ _
    case top => exact (call_stack_getElem nnn s _).trans (if_pos rfl)
    case others => exact (call_stack_getElem nnn s j).trans (if_neg hj)

/-- Settles O5: the tick of the overflow, and CALL from `sp = 15` as a case of O4. -/
theorem callOverflow : Obligations.CallOverflow := by
  unfold Obligations.CallOverflow
  refine ⟨?strict, ?wrap⟩
  case strict =>
    intro nnn s hsp hc hrun hd
    exact step_of_exec_fault hrun hd (exec_call_of_overflow nnn hsp hc)
  case wrap =>
    intro nnn s hsp hc
    obtain ⟨t, ht, hsp', htop, hothers, hjump, hframe⟩ := callPushesReturnAddress.1 nnn s fun _ => hc
    rw [hsp] at hsp'
    have h0 : t.sp = 0 := BitVec.eq_of_toNat_eq hsp'
    have hentry : t.sp.toFin = 0 := congrArg BitVec.toFin h0
    simp only [hentry] at htop hothers
    exact ⟨t, ht, h0, htop, hothers, hjump, hframe⟩

/-- Settles O6: CALL leaves the advanced `pc` in the entry of `sp + 1`, RET reads that entry and takes the 1 off again,
and the mask leaves a `pc` below MEM_SIZE as it is. -/
theorem retUndoesCall : Obligations.RetUndoesCall := by
  unfold Obligations.RetUndoesCall
  intro nnn s t u hno hp hpc hcall hsp hstack hparams hconfig
  rw [exec_call_of_no_overflow nnn hno] at hcall
  cases hcall
  have hsp' : u.sp = s.sp + 1 := hsp
  have hret : u.sp = 0 → u.config.stackCheck = .wrap := fun h0 =>
    (congrArg Configuration.stackCheck hconfig).trans (hno (by bv_omega))
  refine ⟨_, exec_ret_of_no_underflow hret, ?pc, ?sp, rfl⟩
  case pc =>
    have htop : u.stack[u.sp.toFin] = s.pc := by
      rw [hstack]
      exact (call_stack_getElem nnn s _).trans (if_pos (congrArg BitVec.toFin hsp'))
    calc u.stack[u.sp.toFin] &&& u.params.addrMask
      _ = s.pc &&& s.params.addrMask := by rw [htop, hparams]; rfl
      _ = s.pc := masked_of_lt hp hpc
  case sp =>
    rw [writeSp_sp, hsp', BitVec.add_sub_cancel]

/-! Skips (41_control_flow R130, R137 to R140). -/

/-- A skip on a test of a condition is taken exactly where the condition holds. -/
theorem skipsIff_skipIf {c : Bool} {P : Prop} (h : c = true ↔ P) (s : State) : SkipsIff s (skipIf c s) P := by
  refine ⟨fun hP => ?taken, fun hP => ?untaken, skipIf_frame c s⟩
  case taken => rw [h.2 hP, skipIf_true_pc]
  case untaken => rw [Bool.eq_false_iff.2 (mt h.1 hP), skipIf_false]

/-- Settles O8: each of the four is a skip on its comparison. -/
theorem compareSkips : Obligations.CompareSkips := by
  unfold Obligations.CompareSkips
  refine ⟨fun x nn s => ⟨_, rfl, skipsIff_skipIf ?seImm s⟩, fun x nn s => ⟨_, rfl, skipsIff_skipIf ?sneImm s⟩,
    fun x y s => ⟨_, rfl, skipsIff_skipIf beq_iff_eq s⟩, fun x y s => ⟨_, rfl, skipsIff_skipIf bne_iff_ne s⟩⟩
  case seImm => rw [zext_self]; exact beq_iff_eq
  case sneImm => rw [zext_self]; exact bne_iff_ne

end Sys2Proof.Proofs
end

section
/-! The register and arithmetic instructions (42_alu): what a write of one register and a write of a result with a flag
leave, when each flag is set, and the source of a shift. -/

namespace Sys2Proof.Proofs

open Sys2Proof.Machine Sys2Proof.Claims

/-! Writes of one register alone (42_alu R150 to R155, R162). -/

theorem writeReg_getElem_self (x : Reg) (v : Byte) (s : State) : (writeReg x v s).V[x] = v := by
  rw [writeReg_V, getElem_set_reg, if_pos rfl]

theorem writesReg_writeReg (x : Reg) (v : Byte) (s : State) : WritesReg s (writeReg x v s) x v := by
  refine ⟨writeReg_getElem_self x v s, fun r hr => ?others, rfl⟩
  case others => rw [writeReg_V, getElem_set_reg, if_neg hr]

/-- A value that combines two bytes bit by bit, written to one register. -/
theorem writesReg_writeReg_bitwise {a b v : Byte} {op : Bool → Bool → Bool}
    (hv : ∀ k, v.getLsbD k = op (a.getLsbD k) (b.getLsbD k)) (x : Reg) (s : State) :
    WritesReg s (writeReg x v s) x (writeReg x v s).V[x] ∧
      ∀ k, (writeReg x v s).V[x].getLsbD k = op (a.getLsbD k) (b.getLsbD k) := by
  rw [writeReg_getElem_self]
  exact ⟨writesReg_writeReg x v s, hv⟩

theorem exec_ldImm (x : Reg) (nn : Byte) (s : State) : exec (.ldImm x nn) s = .next (writeReg x nn s) := by
  rw [exec, execLdImm, zext_self]

theorem exec_addImm (x : Reg) (nn : Byte) (s : State) :
    exec (.addImm x nn) s = .next (writeReg x (s.V[x] + nn) s) := by
  rw [exec, execAddImm, zext_self, readReg]

theorem exec_rnd (x : Reg) (nn : Byte) (s : State) :
    exec (.rnd x nn) s = .next (writeReg x (s.input.rand &&& nn) s) := by
  rw [exec, execRnd, zext_self]

/-- Settles O9: each is one register write, of the immediate, of the sum or of the other register. -/
theorem loadsAndAddImmediate : Obligations.LoadsAndAddImmediate := by
  unfold Obligations.LoadsAndAddImmediate
  refine ⟨fun x nn s => ⟨_, exec_ldImm x nn s, writesReg_writeReg x nn s⟩, fun x nn s => ⟨_, exec_addImm x nn s, ?sum⟩,
    fun x y s => ⟨_, rfl, writesReg_writeReg x s.V[y] s⟩⟩
  case sum =>
    rw [writeReg_getElem_self]
    exact ⟨BitVec.toNat_add _ _, writesReg_writeReg x _ s⟩

/-- Settles O10: each is one register write, of a value the library gives bit by bit. -/
theorem bitwiseOperations : Obligations.BitwiseOperations := by
  unfold Obligations.BitwiseOperations
  exact ⟨fun x y s => ⟨_, rfl, writesReg_writeReg_bitwise (fun _ => BitVec.getLsbD_or) x s⟩,
    fun x y s => ⟨_, rfl, writesReg_writeReg_bitwise (fun _ => BitVec.getLsbD_and) x s⟩,
    fun x y s => ⟨_, rfl, writesReg_writeReg_bitwise (fun _ => BitVec.getLsbD_xor) x s⟩⟩

/-- Settles O14: one register write of RAND masked, whatever RAND is, and masking with 0 gives 0. -/
theorem randomByteMasked : Obligations.RandomByteMasked := by
  unfold Obligations.RandomByteMasked
  intro x nn s
  obtain ⟨hwrites, hbits⟩ := writesReg_writeReg_bitwise (fun _ => BitVec.getLsbD_and (x := s.input.rand) (y := nn)) x s
  refine ⟨_, exec_rnd x nn s, hwrites, hbits, ?zeroMask⟩
  case zeroMask =>
    rintro rfl
    rw [writeReg_getElem_self]
    exact BitVec.and_zero

/-! A result and a flag (42_alu R156 to R161). -/

/-- A result and a flag written in the order of 10_state R21, where the flag stands for the condition. -/
theorem writesRegAndFlag_writeResultAndFlag {v : Byte} {f : Bool} {result : Nat} {flag : Prop}
    (hv : v.toNat = result) (hf : f = true ↔ flag) (x : Reg) (s : State) :
    WritesRegAndFlag s (writeResultAndFlag x v f s) x result flag := by
  simp only [WritesRegAndFlag, writeResultAndFlag_getElem, if_true]
  refine ⟨fun hx => ?result, fun h => ?set, fun h => ?clear, fun r hx hVF => ?others, writeResultAndFlag_frame x v f s⟩
  case result => rw [if_neg hx, hv]
  case set => rw [hf.2 h]; rfl
  case clear => rw [Bool.eq_false_iff.2 (mt hf.1 h)]; rfl
  case others => rw [if_neg hVF, if_neg hx]

theorem carry_iff {w : Nat} (a b : BitVec w) : carry a b = true ↔ 2 ^ w ≤ a.toNat + b.toNat := decide_eq_true_iff

theorem notBorrow_iff {w : Nat} (a b : BitVec w) : notBorrow a b = true ↔ b.toNat ≤ a.toNat := decide_eq_true_iff

theorem shiftedOutRight_iff {w : Nat} (src : BitVec w) : shiftedOutRight src = true ↔ src.toNat % 2 = 1 := by
  rw [shiftedOutRight, ← BitVec.testBit_toNat, Nat.testBit_zero, decide_eq_true_iff]

theorem shiftedOutLeft_iff {w : Nat} (src : BitVec w) : shiftedOutLeft src = true ↔ 2 ^ (w - 1) ≤ src.toNat := by
  rw [shiftedOutLeft, ← BitVec.msb_eq_getLsbD_last, BitVec.msb_eq_decide, decide_eq_true_iff]

/-- The difference modulo 256, with the 256 added before the subtrahend is taken off. -/
theorem toNat_sub_byte (a b : Byte) : (a - b).toNat = (a.toNat + 256 - b.toNat) % 256 := by
  rw [BitVec.toNat_sub]
  omega

/-- The model's shift source is the one of 42_alu R158. -/
theorem shiftSource_eq {s : State} {x y : Reg} {src : Byte} (h : shiftSourceIs s x y src) : shiftSource s x y = src := by
  obtain ⟨hon, hoff⟩ := h
  unfold shiftSource
  split_ifs with hq
  · exact (hon hq).symm
  · exact (hoff (Bool.eq_false_iff.2 hq)).symm

theorem exec_shr {s : State} {x y : Reg} {src : Byte} (h : shiftSourceIs s x y src) :
    exec (.shr x y) s = .next (writeResultAndFlag x (src >>> 1) (shiftedOutRight src) s) := by
  rw [exec, execShr, shiftSource_eq h]

theorem exec_shl {s : State} {x y : Reg} {src : Byte} (h : shiftSourceIs s x y src) :
    exec (.shl x y) s = .next (writeResultAndFlag x (src <<< 1) (shiftedOutLeft src) s) := by
  rw [exec, execShl, shiftSource_eq h]

/-- Settles O11: the sum and its carry. -/
theorem addRegistersWithCarry : Obligations.AddRegistersWithCarry := by
  unfold Obligations.AddRegistersWithCarry
  exact fun x y s => ⟨_, rfl, writesRegAndFlag_writeResultAndFlag (BitVec.toNat_add _ _) (carry_iff _ _) x s⟩

/-- Settles O12: the difference and its not-borrow, with the operands of SUBN the other way round. -/
theorem subtractWithNotBorrow : Obligations.SubtractWithNotBorrow := by
  unfold Obligations.SubtractWithNotBorrow
  exact ⟨fun x y s => ⟨_, rfl, writesRegAndFlag_writeResultAndFlag (toNat_sub_byte _ _) (notBorrow_iff _ _) x s⟩,
    fun x y s => ⟨_, rfl, writesRegAndFlag_writeResultAndFlag (toNat_sub_byte _ _) (notBorrow_iff _ _) x s⟩⟩

/-- Settles O13: the source halved or doubled, and its bit 0 or its top bit. -/
theorem shiftsWithBitShiftedOut : Obligations.ShiftsWithBitShiftedOut := by
  unfold Obligations.ShiftsWithBitShiftedOut
  refine ⟨fun x y s src h => ⟨_, exec_shr h, writesRegAndFlag_writeResultAndFlag ?half (shiftedOutRight_iff src) x s⟩,
    fun x y s src h => ⟨_, exec_shl h, writesRegAndFlag_writeResultAndFlag ?double (shiftedOutLeft_iff src) x s⟩⟩
  case half => rw [BitVec.toNat_ushiftRight, Nat.shiftRight_one]
  case double => rw [BitVec.toNat_shiftLeft, Nat.shiftLeft_eq, Nat.pow_one]

end Sys2Proof.Proofs
end

section
/-! The index register and memory instructions (43_index_memory): what each answers, what a run of bytes stored at `I`
leaves at each address, and the register file after a block load. -/

namespace Sys2Proof.Proofs

open Sys2Proof.Machine

/-! A run of bytes stored at `I` (43_index_memory R186). -/

theorem byteAt_storeBytes_at {s : State} (hp : s.params.Wf) {bs : List Byte} (hlen : bs.length ≤ 16) {k : Nat}
    (hk : k < bs.length) : byteAt (storeBytes s.I bs s) (decodeAddr s.params (effAddr s k)) = bs[k] :=
  Memory.lookup_writeRun_at s.mem s.params hp s.I bs (hlen.trans hp.block) k hk

theorem byteAt_storeBytes_other {s : State} {bs : List Byte} {a : Nat}
    (h : ∀ k, k < bs.length → a ≠ decodeAddr s.params (effAddr s k)) : byteAt (storeBytes s.I bs s) a = byteAt s a :=
  Memory.lookup_writeRun_other s.mem s.params s.I bs a h

/-! LD_B_VX (43_index_memory R183). -/

theorem exec_ldBVx (x : Reg) (s : State) : exec (.ldBVx x) s = .next (storeBytes s.I (bcdDigits s.V[x]) s) := by
  rw [exec, execLdBVx, zext_self, readReg]

@[simp] theorem bcdDigits_length (v : Byte) : (bcdDigits v).length = 3 := rfl

/-- Each digit is kept whole in its byte, the hundreds of a byte being at most 2. -/
theorem bcdDigits_toNat (v : Byte) : (bcdDigits v)[0].toNat = v.toNat / 100 ∧
    (bcdDigits v)[1].toNat = v.toNat / 10 % 10 ∧ (bcdDigits v)[2].toNat = v.toNat % 10 := by
  have hv := v.isLt
  exact ⟨Nat.mod_eq_of_lt (by omega), Nat.mod_eq_of_lt (by omega), Nat.mod_eq_of_lt (by omega)⟩

/-- Settles O17: the digits are a run of three bytes at `I`, which memory is large enough to hold. -/
theorem bcdStore : Obligations.BcdStore := by
  unfold Obligations.BcdStore
  intro x s hp
  have hstored (k : Nat) (hk : k < 3) :
      byteAt (storeBytes s.I (bcdDigits s.V[x]) s) (decodeAddr s.params (effAddr s k)) = (bcdDigits s.V[x])[k] :=
    byteAt_storeBytes_at hp (by simp) hk
  obtain ⟨hundreds, tens, ones⟩ := bcdDigits_toNat s.V[x]
  refine ⟨_, exec_ldBVx x s, ?hundreds, ?tens, ?ones, fun a ha => byteAt_storeBytes_other ha, rfl⟩
  case hundreds => rw [hstored 0 (by decide), hundreds]
  case tens => rw [hstored 1 (by decide), tens]
  case ones => rw [hstored 2 (by decide), ones]

/-! The block transfers (43_index_memory R184 to R186). -/

theorem exec_ldMemVx (x : Reg) (s : State) :
    exec (.ldMemVx x) s = .next (advanceI x (storeBytes s.I (regsUpTo s x) s)) := by
  rw [exec, execLdMemVx, zext_self]

theorem exec_ldVxMem (x : Reg) (s : State) : exec (.ldVxMem x) s = .next (advanceI x (loadRegs x s)) := by
  rw [exec, execLdVxMem]

theorem advanceI_I_toNat (x : Reg) (s : State) : (advanceI x s).I.toNat = (s.I.toNat + x.val + 1) % 0x10000 := by
  rw [advanceI_I, BitVec.toNat_add, BitVec.toNat_ofNat]
  omega

@[simp] theorem regsUpTo_length (s : State) (x : Reg) : (regsUpTo s x).length = x.val + 1 := by
  rw [regsUpTo_eq, List.length_take, Vector.length_toList]
  omega

theorem regsUpTo_getElem {s : State} {x k : Reg} (h : k.val < (regsUpTo s x).length) :
    (regsUpTo s x)[k.val] = s.V[k] := by
  simp [regsUpTo_eq]

theorem loadRegs_getElem_of_le {x k : Reg} (h : k ≤ x) (s : State) :
    (loadRegs x s).V[k] = byteAt s (decodeAddr s.params (effAddr s k)) := by
  rw [loadRegs_V, Fin.getElem_fin, Vector.getElem_ofFn, if_pos h, memRead_eq_byteAt]

theorem loadRegs_getElem_of_lt {x k : Reg} (h : x < k) (s : State) : (loadRegs x s).V[k] = s.V[k] := by
  rw [loadRegs_V, Fin.getElem_fin, Vector.getElem_ofFn, if_neg (not_le.2 h), Fin.getElem_fin]

/-- A block store leaves each of its registers at its own address (43_index_memory R184). -/
theorem byteAt_blockStore {x k : Reg} {s : State} (hp : s.params.Wf) (hk : k ≤ x) :
    byteAt (storeBytes s.I (regsUpTo s x) s) (decodeAddr s.params (effAddr s k)) = s.V[k] := by
  have hlen : k.val < (regsUpTo s x).length := by rw [regsUpTo_length]; exact Nat.lt_succ_of_le hk
  rw [byteAt_storeBytes_at hp (by rw [regsUpTo_length]; omega) hlen, regsUpTo_getElem]

/-- Settles O18: the registers are a run of at most sixteen bytes at `I`, and then `I` advances. -/
theorem blockStore : Obligations.BlockStore := by
  unfold Obligations.BlockStore
  intro x s hp
  refine ⟨_, exec_ldMemVx x s, fun k hk => byteAt_blockStore hp hk, fun a ha => ?others, advanceI_I_toNat x _, rfl⟩
  case others =>
    exact byteAt_storeBytes_other fun k hk => ha k (by rw [regsUpTo_length] at hk; omega)

/-- Settles O19: a register of the block holds a byte read, one above it is kept, and then `I` advances. -/
theorem blockLoad : Obligations.BlockLoad := by
  unfold Obligations.BlockLoad
  intro x s
  refine ⟨_, exec_ldVxMem x s, fun k hk => loadRegs_getElem_of_le hk s,
    fun k hk => loadRegs_getElem_of_lt hk s, ?I, ?frame⟩
  case I => rw [advanceI_I_toNat, loadRegs_I]
  case frame => rw [loadRegs]; rfl

/-- Settles O20: the load reads under the same parameters and `I` the addresses the store wrote. -/
theorem blockLoadInvertsBlockStore : Obligations.BlockLoadInvertsBlockStore := by
  unfold Obligations.BlockLoadInvertsBlockStore
  intro x s t u hp hstore hparams hmem hI
  rw [exec_ldMemVx] at hstore
  cases hstore
  refine ⟨_, exec_ldVxMem x u, ?I, fun k hk => ?loaded⟩
  case I => rw [advanceI_I, loadRegs_I, hI]; rfl
  case loaded =>
    calc (loadRegs x u).V[k]
      _ = byteAt u (decodeAddr u.params (effAddr u k)) := loadRegs_getElem_of_le hk u
      _ = byteAt (storeBytes s.I (regsUpTo s x) s) (decodeAddr s.params (effAddr s k)) := by
        rw [byteAt, hmem, hparams, effAddr_eq, hI]; rfl
      _ = s.V[k] := byteAt_blockStore hp hk

/-! The writes of `I` alone (43_index_memory R180 to R182). -/

theorem exec_ldI (nnn : Addr) (s : State) : exec (.ldI nnn) s = .next (writeI (nnn.setWidth 16) s) := by
  rw [exec, execLdI, zext]

theorem exec_addIVx (x : Reg) (s : State) : exec (.addIVx x) s = .next (writeI (s.I + s.V[x].setWidth 16) s) := by
  rw [exec, execAddIVx, zext, readReg]

theorem exec_ldFVx (x : Reg) (s : State) : exec (.ldFVx x) s =
    .next (writeI (BitVec.ofNat 16 (s.params.fontBase.toNat + s.params.glyphBytes * s.V[x].toNat)) s) := by
  rw [exec, execLdFVx, readReg]

/-- Settles O15: each is one write of `I`; the greatest glyph address of this hardware, 5 * 255, needs no reduction. -/
theorem indexWrites : Obligations.IndexWrites := by
  unfold Obligations.IndexWrites
  refine ⟨fun nnn s => ⟨_, exec_ldI nnn s, ?address, rfl⟩, fun x s => ⟨_, exec_addIVx x s, ?sum, rfl⟩,
    fun x s => ⟨_, exec_ldFVx x s, BitVec.toNat_ofNat _ 16, fun hs => ?hardware, rfl⟩⟩
  case address =>
    rw [writeI_I, BitVec.toNat_setWidth]
    omega
  case sum =>
    rw [writeI_I, BitVec.toNat_add, BitVec.toNat_setWidth]
    omega
  case hardware =>
    have hfont : Parameters.hardware.fontBase.toNat = 0 := rfl
    have hglyph : Parameters.hardware.glyphBytes = 5 := rfl
    rw [writeI_I, BitVec.toNat_ofNat, hs, hfont, hglyph]
    omega

end Sys2Proof.Proofs
end

section
/-! The display, input and timer instructions (44_display_input_timers): what each answers, the requests and the pixels
of a sprite, and the ticks of the key wait and of the timer moves. -/

namespace Sys2Proof.Proofs

open Sys2Proof.Machine Sys2Proof.Claims

/-! The display (44_display_input_timers R200, R201). -/

/-- Settles O25: the plane after a clear is the blank one. -/
theorem clearScreen : Obligations.ClearScreen := by
  unfold Obligations.ClearScreen
  exact fun s => ⟨markDraw (dispClear s), rfl, fun px py => rfl, rfl, rfl⟩

/-- The pixels of `DRW x y n`, in the order of its toggles (44_display_input_timers R201). -/
def drawPixels (s : State) (x y : Reg) (n : Nibble) : List (Nat × Nat) :=
  spritePixels s s.V[x].toNat s.V[y].toNat n.toNat

theorem exec_drw (x y : Reg) (n : Nibble) (s : State) : exec (.drw x y n) s =
    .next (markDraw (writeFlag (s.display.toggleAll (drawPixels s x y n)).2 (dispToggle (drawPixels s x y n) s))) := by
  rw [exec, execDrw, readReg, readReg, drawPixels]

theorem mem_drawPixels {s : State} {x y : Reg} {n : Nibble} {px py : Nat} :
    (px, py) ∈ drawPixels s x y n ↔ Covers s x y n px py :=
  mem_spritePixels s _ _ _ px py

/-- A sprite no larger than the display has no pixel twice. -/
theorem nodup_drawPixels {s : State} {n : Nibble} (hw : 8 ≤ s.params.displayWidth)
    (hn : n.toNat ≤ s.params.displayHeight) (x y : Reg) : (drawPixels s x y n).Nodup :=
  nodup_spritePixels s _ _ _ hw hn

/-- On a display no smaller than the sprite the toggles invert the covered pixels, each once. -/
theorem pixel_toggleAll_drawPixels {s : State} {n : Nibble} (hw : 8 ≤ s.params.displayWidth)
    (hn : n.toNat ≤ s.params.displayHeight) (x y : Reg) (px py : Nat) :
    (Covers s x y n px py →
      (s.display.toggleAll (drawPixels s x y n)).1.pixel px py = !s.display.pixel px py) ∧
    (¬Covers s x y n px py →
      (s.display.toggleAll (drawPixels s x y n)).1.pixel px py = s.display.pixel px py) := by
  rw [Plane.pixel_toggleAll _ (nodup_drawPixels hw hn x y), ← mem_drawPixels]
  exact ⟨fun h => if_pos h, fun h => if_neg h⟩

/-- On such a display the toggles collide exactly where a covered pixel was on. -/
theorem collision_drawPixels_iff {s : State} {n : Nibble} (hw : 8 ≤ s.params.displayWidth)
    (hn : n.toNat ≤ s.params.displayHeight) (x y : Reg) :
    (s.display.toggleAll (drawPixels s x y n)).2 = true ↔
      ∃ px py, Covers s x y n px py ∧ s.display.pixel px py = true := by
  rw [Plane.collision_toggleAll _ (nodup_drawPixels hw hn x y), Prod.exists]
  exact exists₂_congr fun px py => and_congr_left' mem_drawPixels

/-- One row's pixels are its columns with a 1 bit, in their order. -/
theorem rowPixels_eq_map_filter (W : Nat) (row : Byte) (px y : Nat) : rowPixels W row px y =
    ((List.range 8).filter fun c => row.getLsbD (7 - c)).map fun c => ((px + c) % W, y) := by
  rw [← List.filterMap_eq_map, List.filterMap_filter]
  rfl

/-- The toggle requests follow the loop of 44_display_input_timers R201. -/
theorem map_togglePixel_drawPixels (s : State) (x y : Reg) (n : Nibble) :
    (drawPixels s x y n).map (fun q => .togglePixel q.1 q.2) = drawRequests s x y n := by
  simp only [drawPixels, drawRequests, spritePixels, rowPixels_eq_map_filter, List.filter_flatMap, List.map_flatMap,
    List.filter_map, List.map_map]
  rfl

theorem writeFlag_getElem_of_ne {r : Reg} {s : State} (f : Bool) (hr : r ≠ s.params.flagReg) :
    (writeFlag f s).V[r] = s.V[r] := by
  rw [writeFlag, writeReg_V, getElem_set_reg, if_neg hr]

/-- Settles O26: the toggles of the sprite's pixels, the flag of their collision, and the draw effect. -/
theorem drawXorsSprite : Obligations.DrawXorsSprite := by
  unfold Obligations.DrawXorsSprite
  intro x y n s
  have hVF := writeFlag_VF (s.display.toggleAll (drawPixels s x y n)).2 (dispToggle (drawPixels s x y n) s)
  refine ⟨_, exec_drw x y n s,
    fun hw hn => ⟨pixel_toggleAll_drawPixels hw hn x y, fun hon => ?collision, fun hoff => ?noCollision⟩,
    hVF ▸ flagByte_eq_zero_or_one _, fun r hr => writeFlag_getElem_of_ne _ hr, ?requests, rfl⟩
  case collision =>
    exact hVF.trans (congrArg flagByte ((collision_drawPixels_iff hw hn x y).2 hon))
  case noCollision =>
    have hclear : (s.display.toggleAll (drawPixels s x y n)).2 = false := by
      rw [Bool.eq_false_iff, ne_eq, collision_drawPixels_iff hw hn]
      rintro ⟨px, py, hc, hp⟩
      rw [hoff px py hc] at hp
      cases hp
    exact hVF.trans (congrArg flagByte hclear)
  case requests => rw [← map_togglePixel_drawPixels]; rfl

/-! The key skips (44_display_input_timers R202, R203). -/

theorem not_keyEquals_iff (s : State) (v : Byte) : (!keyEquals s v) = true ↔ s.input.key ≠ some v := by
  rw [Bool.not_eq_true', Bool.eq_false_iff, ne_eq, keyEquals_iff]

/-- Settles O27: each is a skip on the key comparison, which a value above the key codes fails. -/
theorem keySkips : Obligations.KeySkips := by
  unfold Obligations.KeySkips
  refine ⟨fun x s => ⟨_, rfl, skipsIff_skipIf (keyEquals_iff s s.V[x]) s⟩,
    fun x s => ⟨_, rfl, skipsIff_skipIf (not_keyEquals_iff s s.V[x]) s⟩, fun x s hkey hx => ?above⟩
  case above =>
    have hno : keyEquals s s.V[x] = false := by
      rw [Bool.eq_false_iff, ne_eq, keyEquals_iff]
      exact fun hk => absurd (hkey _ hk) (not_lt.2 hx)
    rw [exec, execSkp, readReg, hno, skipIf_false]

/-! The key wait (44_display_input_timers R205). -/

theorem exec_ldVxK_of_no_key (x : Reg) {s : State} (h : s.input.key = none) :
    exec (.ldVxK x) s = .next (writePc (s.pc - 2) s) := by
  rw [exec, execLdVxK, h]

theorem exec_ldVxK_of_key (x : Reg) {s : State} {k : Byte} (h : s.input.key = some k) :
    exec (.ldVxK x) s = .next (writeReg x k s) := by
  rw [exec, execLdVxK, h]
  exact congrArg (fun v => Host.Outcome.next (writeReg x v s)) (zext_self k)

/-- Stepping back by 2 undoes the advance of step 4, at the top of memory too: both are masked, and the mask keeps
sums (20_memory R51). -/
theorem masked_advance_sub_two {p : Parameters} (hp : p.Wf) {a : Word} (ha : a.toNat < p.memSize) :
    (((a + 2) &&& p.addrMask) - 2) &&& p.addrMask = a := by
  have hmask : decodeAddr p ((a + 2) &&& p.addrMask) = decodeAddr p (a + 2) := by
    rw [decodeAddr, BitVec.and_assoc, BitVec.and_self, decodeAddr]
  have hback : ∀ b : Word, b - 2 = b + BitVec.ofNat 16 0xFFFE := fun b => BitVec.sub_eq_add_neg b 2
  calc (((a + 2) &&& p.addrMask) - 2) &&& p.addrMask
    _ = (a + 2 - 2) &&& p.addrMask := by
      rw [hback, hback]
      exact BitVec.eq_of_toNat_eq (decodeAddr_add_congr hp hmask 0xFFFE)
    _ = a := by rw [BitVec.add_sub_cancel, masked_of_lt hp ha]

/-- A tick whose step 5 takes no fault ends with steps 6 and 7. -/
theorem step_of_exec {s u : State} {i : Instr} (hrun : Running s) (hd : Decodes s i)
    (h : exec i (advance (observe i (beginTick s))) = .next u) (hf : u.fault = none) :
    step s = .next (notifyFrame (timers u)) := by
  rw [step_of_ok hrun hd, runInstr, h, ← endTick_of_none hf]

/-- Settles O28: the two branches on the sample, and the tick around each. -/
theorem waitForKey : Obligations.WaitForKey := by
  unfold Obligations.WaitForKey
  refine ⟨fun x s h => ⟨_, exec_ldVxK_of_no_key x h, rfl, rfl⟩,
    fun x s k h => ⟨_, exec_ldVxK_of_key x h, writesReg_writeReg x k s⟩, ?blocked, ?stored⟩
  case blocked =>
    intro s x hrun hp hlt hd hkey
    have hpc := masked_advance_sub_two hp hlt
    exact ⟨_, step_of_exec hrun hd (exec_ldVxK_of_no_key x hkey) hrun.2, hpc, countDown_toNat s.DT,
      countDown_toNat s.ST, beq_iff_eq, ⟨rfl, hpc, rfl, rfl, rfl, rfl, rfl, rfl, rfl, rfl, rfl, rfl, rfl⟩⟩
  case stored =>
    intro s x k hrun hd hkey
    exact ⟨_, step_of_exec hrun hd (exec_ldVxK_of_key x hkey) hrun.2, rfl, writeReg_getElem_self x k _⟩

/-! The timer moves (44_display_input_timers R204, R206, R207). -/

theorem exec_ldVxDt (x : Reg) (s : State) : exec (.ldVxDt x) s = .next (writeReg x s.DT s) := by
  rw [exec, execLdVxDt, zext_self]

theorem exec_ldDtVx (x : Reg) (s : State) : exec (.ldDtVx x) s = .next (writeDT s.V[x] s) := by
  rw [exec, execLdDtVx, zext_self, readReg]

theorem exec_ldStVx (x : Reg) (s : State) : exec (.ldStVx x) s = .next (writeST s.V[x] s) := by
  rw [exec, execLdStVx, zext_self, readReg]

/-- Settles O29: each is one write of a register or a timer, and step 6 counts down what step 5 left. -/
theorem timerMoves : Obligations.TimerMoves := by
  unfold Obligations.TimerMoves
  refine ⟨fun x s => ⟨_, exec_ldVxDt x s, writesReg_writeReg x s.DT s⟩, exec_ldDtVx, exec_ldStVx,
    ?readDelay, ?loadDelay, ?loadSound⟩
  case readDelay =>
    intro x s hrun hd
    exact ⟨_, step_of_exec hrun hd (exec_ldVxDt x _) hrun.2, writeReg_getElem_self x s.DT _, countDown_toNat s.DT⟩
  case loadDelay =>
    intro x s hrun hd
    exact ⟨_, step_of_exec hrun hd (exec_ldDtVx x _) hrun.2, countDown_toNat s.V[x]⟩
  case loadSound =>
    intro x s hrun hd
    exact ⟨_, step_of_exec hrun hd (exec_ldStVx x _) hrun.2, countDown_toNat s.V[x], beq_iff_eq⟩

end Sys2Proof.Proofs
end

section
/-! The faults of a tick (60_exceptions R231 to R240): their causes, and what a tick with a cause commits. -/

namespace Sys2Proof.Proofs

open Sys2Proof.Machine Sys2Proof.Claims

/-- Settles O38: a stopped core does nothing, a word that does not decode is a fault, and every instruction answers a
next state. -/
theorem everyStepAnswersNext : Obligations.EveryStepAnswersNext := by
  unfold Obligations.EveryStepAnswersNext
  intro s
  cases hhalt : s.halted with
  | true => exact ⟨_, step_of_stopped (.inl hhalt)⟩
  | false =>
    cases hfault : s.fault with
    | some r => exact ⟨_, step_of_stopped (.inr ⟨r, hfault⟩)⟩
    | none =>
      cases hd : disassemble (tickWord s) with
      | error e => exact ⟨_, step_of_error ⟨hhalt, hfault⟩ hd⟩
      | ok i =>
        obtain ⟨u, hu⟩ := exec_next i (advance (observe i (beginTick s)))
        refine ⟨endTick u, ?_⟩
        rw [step_of_ok ⟨hhalt, hfault⟩ hd, runInstr, hu]

/-- The causes of the fault table, seen in the state before the tick (60_exceptions R232). -/
def FaultCause (s : State) (c : FaultCode) : Prop :=
  match c with
  | .decode => ∃ e, disassemble (tickWord s) = .error e
  | .stackOverflow => (∃ n, Decodes s (.call n)) ∧ s.sp = 15 ∧ s.config.stackCheck = .strict
  | .stackUnderflow => Decodes s .ret ∧ s.sp = 0 ∧ s.config.stackCheck = .strict

/-- What a tick that takes the fault `c` leaves: the record in the latch and among the outputs, no other output but the
observer's, and the rest of the core (60_exceptions R231, R239). -/
structure CommitsFault (c : FaultCode) (s t : State) : Prop where
  fault   : t.fault = some ⟨c, s.pc, tickWord s⟩
  output  : t.out.fault = t.fault
  display : t.out.display = []
  beep    : t.out.beep = false
  frame   : t.out.frameComplete = false
  core    : SameCore { s with fault := t.fault } t

theorem commitsFault_decode (s : State) : CommitsFault .decode s (raiseFault .decode (beginTick s)) :=
  ⟨rfl, rfl, rfl, rfl, rfl, sameCore_decodeFault s⟩

/-- A fault of step 5 takes back the advance of `pc`, and steps 6 and 7 do not run. -/
theorem commitsFault_of_exec {s t : State} {i : Instr} {c : FaultCode} (hrun : Running s) (hd : Decodes s i)
    (h : step s = .next t)
    (hf : exec i (advance (observe i (beginTick s))) = .next (raiseFault c (advance (observe i (beginTick s))))) :
    CommitsFault c s t := by
  obtain ⟨u, hu, rfl⟩ := step_decoded hrun hd h
  cases hf.symm.trans hu
  rw [endTick_of_some (raiseFault_fault c _)]
  exact ⟨rfl, rfl, rfl, rfl, rfl, by constructor <;> rfl⟩

theorem commitsFault_of_cause {s t : State} {c : FaultCode} (hrun : Running s) (h : step s = .next t)
    (hc : FaultCause s c) : CommitsFault c s t := by
  cases c with
  | decode =>
    obtain ⟨e, he⟩ := hc
    rw [step_of_error hrun he] at h
    cases h
    exact commitsFault_decode s
  | stackOverflow =>
    obtain ⟨⟨n, hd⟩, hsp, hstrict⟩ := hc
    exact commitsFault_of_exec hrun hd h (exec_call_of_overflow n hsp hstrict)
  | stackUnderflow =>
    obtain ⟨hd, hsp, hstrict⟩ := hc
    exact commitsFault_of_exec hrun hd h (exec_ret_of_underflow hsp hstrict)

/-- A tick ends with a latched fault only for a cause of its code. -/
theorem faultCause_of_fault {s t : State} {r : FaultRecord} (hrun : Running s) (h : step s = .next t)
    (hr : t.fault = some r) : FaultCause s r.code := by
  rcases step_cases h with ⟨hstop, -⟩ | ⟨-, he, rfl⟩ | ⟨-, i, u, hd, hu, rfl⟩
  · simp [hrun.1, hrun.2] at hstop
  · cases hr
    exact he
  · rw [endTick_fault] at hr
    rcases exec_fault hu with ⟨rfl, hsp, hstrict, rfl⟩ | ⟨⟨n, rfl⟩, hsp, hstrict, rfl⟩ | ⟨hkeep, -⟩
    · cases hr
      exact ⟨hd, hsp, hstrict⟩
    · cases hr
      exact ⟨⟨n, hd⟩, hsp, hstrict⟩
    · have hnone : u.fault = none := hkeep.trans hrun.2
      rw [hnone] at hr
      cases hr

theorem fault_code_iff_faultCause {s t : State} (hrun : Running s) (h : step s = .next t) (c : FaultCode) :
    (∃ r, t.fault = some r ∧ r.code = c) ↔ FaultCause s c := by
  constructor
  · rintro ⟨r, hr, rfl⟩
    exact faultCause_of_fault hrun h hr
  · intro hc
    exact ⟨_, (commitsFault_of_cause hrun h hc).fault, rfl⟩

/-- Settles O36: the latched fault has a cause, and a tick with a cause commits its fault alone. -/
theorem faultsArePrecise : Obligations.FaultsArePrecise := by
  unfold Obligations.FaultsArePrecise
  intro s t r hrun h hr
  obtain ⟨hfault, hout, hdisplay, hbeep, hframe, hcore⟩ :=
    commitsFault_of_cause hrun h (faultCause_of_fault hrun h hr)
  rw [hr] at hfault hout hcore
  have hrecord : r = ⟨r.code, s.pc, tickWord s⟩ := Option.some.inj hfault
  exact ⟨congrArg Sized.FaultRecord.pc hrecord, congrArg Sized.FaultRecord.opcode hrecord, hout, hdisplay, hbeep,
    hframe, hcore⟩

/-- Settles O37: the rows of the fault table are the cases of `FaultCause`. -/
theorem tickFaultsExactly : Obligations.TickFaultsExactly := by
  unfold Obligations.TickFaultsExactly
  intro s t hrun h
  have hiff := fault_code_iff_faultCause hrun h
  exact ⟨hiff .decode, hiff .stackOverflow, hiff .stackUnderflow⟩

end Sys2Proof.Proofs
end

section
/-! The observer (60_exceptions R245): two runs that differ in whether one is attached. -/

namespace Sys2Proof.Proofs

open Sys2Proof.Machine Sys2Proof.Claims

/-- `s` with another answer to whether an observer is attached and another observer output. -/
def withObservation (b : Bool) (o : Option Snapshot) (s : State) : State :=
  { withObserver b s with out := { s.out with obs := o } }

@[simp] theorem withObservation_sp (b : Bool) (o : Option Snapshot) (s : State) :
    (withObservation b o s).sp = s.sp := rfl

@[simp] theorem withObservation_stackCheck (b : Bool) (o : Option Snapshot) (s : State) :
    (withObservation b o s).config.stackCheck = s.config.stackCheck := rfl

@[simp] theorem withObservation_input (b : Bool) (o : Option Snapshot) (s : State) :
    (withObservation b o s).input = s.input := rfl

@[simp] theorem withObservation_fault (b : Bool) (o : Option Snapshot) (s : State) :
    (withObservation b o s).fault = s.fault := rfl

theorem withObserver_withObservation {b b' : Bool} {o : Option Snapshot} {s : State} (h : s.config.observer = b') :
    withObserver b' (withObservation b o s) = { s with out := { s.out with obs := o } } := by
  subst h
  rfl

theorem skipIf_withObservation (c b : Bool) (o : Option Snapshot) (s : State) :
    skipIf c (withObservation b o s) = withObservation b o (skipIf c s) := by
  cases c <;> rfl

/-- No instruction reads the observer's attachment or its output. -/
theorem exec_withObservation {i : Instr} {s t : State} (b : Bool) (o : Option Snapshot) (h : exec i s = .next t) :
    exec i (withObservation b o s) = .next (withObservation b o t) := by
  cases i with
  | ret =>
    rw [exec, execRet] at h ⊢
    rw [withObservation_sp, withObservation_stackCheck]
    split_ifs at h ⊢ <;> cases h <;> rfl
  | call nnn =>
    rw [exec, execCall] at h ⊢
    rw [withObservation_sp, withObservation_stackCheck]
    split_ifs at h ⊢ <;> cases h <;> rfl
  | ldVxK x =>
    rw [exec, execLdVxK] at h ⊢
    rw [withObservation_input]
    split at h <;> cases h <;> rfl
  | seImm | sneImm | seReg | sneReg | skp | sknp =>
    cases h; exact congrArg Host.Outcome.next (skipIf_withObservation _ b o s)
  | ldVxMem x => obtain rfl := Host.Outcome.next.inj h; rfl
  | _ => cases h; rfl

theorem endTick_withObservation (b : Bool) (o : Option Snapshot) (s : State) :
    endTick (withObservation b o s) = withObservation b o (endTick s) := by
  cases hf : s.fault with
  | none => rw [endTick_of_none hf, endTick_of_none ((withObservation_fault b o s).trans hf)]; rfl
  | some r => rw [endTick_of_some hf, endTick_of_some ((withObservation_fault b o s).trans hf)]

/-- Steps 1, 3 and 4 with another answer differ in the answer and the observer output alone. -/
theorem advance_observe_withObserver (b : Bool) (i : Instr) (s : State) :
    advance (observe i (beginTick (withObserver b s))) =
      withObservation b (if b then some (snapshot i (beginTick s)) else none) (advance (observe i (beginTick s))) :=
  rfl

/-- With another answer to whether an observer is attached a step leads to the same state but for the answer and the
observer output. -/
theorem step_withObserver {s t : State} (b : Bool) (h : step s = .next t) :
    ∃ o, step (withObserver b s) = .next (withObservation b o t) := by
  rcases step_cases h with ⟨hstop, rfl⟩ | ⟨hrun, ⟨e, he⟩, rfl⟩ | ⟨hrun, i, u, hd, hu, rfl⟩
  · exact ⟨none, step_of_stopped (s := withObserver b s) (hstop.imp_right Option.ne_none_iff_exists'.1)⟩
  · exact ⟨none, step_of_error (s := withObserver b s) hrun he⟩
  · refine ⟨if b then some (snapshot i (beginTick s)) else none, ?_⟩
    rw [step_of_ok (s := withObserver b s) hrun hd, runInstr, advance_observe_withObserver,
      exec_withObservation b _ hu, ← endTick_withObservation]

@[simp] theorem endTick_obs (s : State) : (endTick s).out.obs = s.out.obs := by
  unfold endTick
  split_ifs <;> rfl

/-- Settles O40: steps 4 to 7 pass the observer output of step 3 on, and a tick that does not decode runs none of
them. -/
theorem observerChangesNothing : Obligations.ObserverChangesNothing := by
  unfold Obligations.ObserverChangesNothing
  refine ⟨?unchanged, ?decoded, ?undecoded⟩
  case unchanged =>
    intro s t b h
    obtain ⟨o, ho⟩ := step_withObserver b h
    have hconfig : t.config = s.config := (step_params_config h).2
    exact ⟨_, ho, withObserver_withObservation (congrArg Configuration.observer hconfig)⟩
  case decoded =>
    intro s t i hrun hobs hd h
    obtain ⟨u, hu, rfl⟩ := step_decoded hrun hd h
    have hemit : u.out.obs = if s.config.observer then some (snapshot i (beginTick s)) else none := (exec_keeps hu).obs
    rw [endTick_obs, hemit, if_pos hobs]
    rfl
  case undecoded =>
    intro s t e hrun he h
    rw [step_of_error hrun he] at h
    cases h
    rfl

end Sys2Proof.Proofs
end

section
/-! The host actions at their bounds (60_exceptions R236, R237), and what a reset and a load keep (R247). -/

namespace Sys2Proof.Proofs

open Sys2Proof.Machine

theorem construct_of_pos {p : Parameters} {q : Bool} {hz : Int} {c : StackPolicy} {o : Bool} {d : Plane} (h : 0 < hz) :
    (construct p q hz c o d : Except HostError State) = .ok (Sized.State.initial p ⟨q, hz.toNat, c, o⟩ d) :=
  if_neg (not_le.2 h)

theorem construct_eq_error_iff {p : Parameters} {q : Bool} {hz : Int} {c : StackPolicy} {o : Bool} {d : Plane} :
    (construct p q hz c o d : Except HostError State) = .error .invalidConfig ↔ hz ≤ 0 := by
  unfold construct
  split_ifs with h
  · exact iff_of_true rfl h
  · exact iff_of_false nofun h

theorem load_of_fits {bytes : List Byte} {s : State}
    (h : s.params.programOrigin.toNat + bytes.length ≤ s.params.memSize) :
    load bytes s = .ok (storeBytes s.params.programOrigin bytes (resetCore s)) :=
  if_neg (not_lt.2 h)

theorem load_eq_error_iff {bytes : List Byte} {s : State} :
    load bytes s = .error .programTooLarge ↔ s.params.memSize < s.params.programOrigin.toNat + bytes.length := by
  unfold load
  split_ifs with h
  · exact iff_of_true rfl h
  · exact iff_of_false nofun h

/-- Settles O52: each action is its check and then an answer. -/
theorem hostErrors : Obligations.HostErrors := by
  unfold Obligations.HostErrors
  refine ⟨fun p q hz c o d => ⟨construct_eq_error_iff, fun h => ⟨_, construct_of_pos h⟩⟩, hardware_maxProgram,
    fun bytes s => ⟨load_eq_error_iff, fun h => ⟨_, load_of_fits h⟩⟩, ?hardware⟩
  case hardware =>
    intro bytes s hp
    have hsize : s.params.memSize = 4096 := congrArg Sized.Parameters.memSize hp
    have horigin : s.params.programOrigin.toNat = 512 := congrArg (fun p => p.programOrigin.toNat) hp
    rw [load_eq_error_iff, hsize, horigin]
    omega

/-- Settles O53: a reset copies the host's fields, and a load writes memory alone after its reset. -/
theorem resetKeepsHostState : Obligations.ResetKeepsHostState := by
  unfold Obligations.ResetKeepsHostState
  refine ⟨fun s => ⟨rfl, rfl, rfl, rfl⟩, ?load⟩
  case load =>
    intro bytes s t h
    obtain ⟨-, rfl⟩ := load_ok h
    exact ⟨rfl, rfl, rfl, rfl⟩

end Sys2Proof.Proofs
end
